-- ==== Sys2Proof/Word.lean ====
section
/-! DEFINITION. The data types of 00_scope.md R12: a byte is a u8, `bytes[N]` is a sequence of bytes, offsets and sizes are
natural numbers with no wrap-around. -/

namespace Sys2Proof

/-- A byte, the smallest addressable unit (R12, R60). -/
abbrev Byte := BitVec 8

/-- A byte sequence: index `i` is the byte at offset `i` (R12, R60). -/
abbrev Bytes := List Byte

end Sys2Proof
end

