-- ==== Sys2Proof/Machine/Operands.lean ====
section
/-! DEFINITION. The operand forms of the operations: truncation of `VAL`, widening to `RVAL`, and the operands and container of a
bit field (40_primitive_codec.md R131, R132, R147). All sizes and offsets are natural numbers (00_scope.md R12). -/

namespace Sys2Proof.Machine

/-- `trunc_w(VAL)`: the low `w` bits of the value port (R12, R131). -/
def truncVal (w : Nat) (val : BitVec 64) : Nat := val.toNat % 2 ^ w

/-- `zext_64`: a value widened to `RVAL` with zero bits above (R12, R132). -/
def zext64 (v : Nat) : BitVec 64 := BitVec.ofNat 64 v

/-- `sext_64` of a 16-bit pattern: widened to `RVAL` with copies of its top bit (R12, R132). -/
def sext64 (v : Nat) : BitVec 64 := (BitVec.ofNat 16 v).signExtend 64

/-- A bit field is legal iff `1 ≤ BITW ≤ 16` and `BITOFF + BITW ≤ 16` (R147). -/
def bitFieldLegal (bitoff bitw : Nat) : Bool := 1 ≤ bitw && bitw ≤ 16 && bitoff + bitw ≤ 16

/-- `cb`, the length in bytes of the container of a bit field (R147). -/
def containerBytes (bitoff bitw : Nat) : Nat := (bitoff + bitw + 7) / 8

/-- The field `[bitoff + bitw - 1 : bitoff]` of the container `w` (R149). -/
def extractField (w bitoff bitw : Nat) : Nat := (w >>> bitoff) % 2 ^ bitw

/-- `mask`: the bits of the field within the container, which has at most 16 bits (R150). -/
def fieldMask (bitoff bitw : Nat) : BitVec 16 := BitVec.ofNat 16 (2 ^ bitw - 1) <<< bitoff

/-- The container `w` with the field replaced by the low `bitw` bits of `val` and every other bit kept (R148, R150). -/
def insertField (w bitoff bitw : Nat) (val : BitVec 64) : Nat :=
  ((BitVec.ofNat 16 w &&& ~~~fieldMask bitoff bitw) ||| (BitVec.ofNat 16 (truncVal bitw val) <<< bitoff)).toNat

end Sys2Proof.Machine
end

