-- ==== Sys2Proof/Config.lean ====
section
/-! DEFINITION. The fixed constants of the block (00_scope.md R8), the default and the permitted values of the parameter
`OFF_BITS` (R9), and the catalog values the layouts name (42_payload_registry.md R197, R230). The parameters `REGISTRY` and
`OFF_BITS` are fields of State (log 3, log 4); the default registry stands in Machine/Registry.lean. -/

namespace Sys2Proof.Config

/-- `HEADER_LEN`: the header is 36 bytes (R8, R100). -/
abbrev headerLen : Nat := 36

/-- `MAX_PACKET`: a packet is at most 128 bytes (R8, R72). -/
abbrev maxPacket : Nat := 128

/-- `MAX_PAYLOAD`: a payload is at most 92 bytes, `MAX_PACKET - HEADER_LEN` (R8). -/
abbrev maxPayload : Nat := 92

/-- `PROTOCOL`: the one accepted value of the 12-bit protocol field (R8, R171). -/
abbrev protocol : BitVec 12 := 1024#12

/-- `ORIGIN_REQUIRED`: the one accepted value of the 2-bit origin field (R8, R171). -/
abbrev originRequired : BitVec 2 := 0#2

/-- `HSBK_LEN`: an HSBK composite is 8 bytes (R8, R239). -/
abbrev hsbkLen : Nat := 8

/-- `UDP_PORT`: a catalog constant only; no rule of the block uses it (R8). -/
abbrev udpPort : BitVec 32 := 56700#32

/-- The default of the parameter `OFF_BITS`, the width of `OFF` and `AUX` in the command word (R9, R62). -/
abbrev offBits : Nat := 16

/-- The values of `OFF_BITS` that a block may be built with: at least 8 (the parameter table of 92_eei_decisions.md), and at most
the 16 bits that the 64-bit command word has at each of the two places (R90; DESIGN CHOICE, log 4). -/
def offBitsLegal (n : Nat) : Bool := 8 ≤ n && n ≤ 16

/-- Service code 1, UDP (R197). Not checked by any rule (R245). -/
abbrev serviceUdp : Byte := 1

/-- Service code 2, TCP (R197). Not checked by any rule (R245). -/
abbrev serviceTcp : Byte := 2

/-- Waveform code 0, SAW (R230). Not checked by any rule (R245). -/
abbrev waveformSaw : Byte := 0

/-- Waveform code 1, SINE (R230). -/
abbrev waveformSine : Byte := 1

/-- Waveform code 2, HALF_SINE (R230). -/
abbrev waveformHalfSine : Byte := 2

/-- Waveform code 3, TRIANGLE (R230). -/
abbrev waveformTriangle : Byte := 3

/-- Waveform code 4, PULSE (R230). -/
abbrev waveformPulse : Byte := 4

end Sys2Proof.Config
end

