-- ==== Sys2Proof/Syntax.lean ====
section
/-! DEFINITION. The instructions: one constructor for each row of spec/opcode_table.json. The first 23 are the operations of the
command word (30_encoding.md R92, R94), with the operand fields each uses (R95). The other 43 are the message types (30_encoding.md
R107, 42_payload_registry.md R195), whose word is the 16-bit code alone (log 1). -/

namespace Sys2Proof

/-- One constructor per row of the opcode table. -/
inductive Instr where
  /-- RD_U8, `OP` = 0x00 (R133). -/
  | rdU8 (off : BitVec 16)
  /-- RD_U16, `OP` = 0x01 (R134). -/
  | rdU16 (off : BitVec 16)
  /-- RD_U32, `OP` = 0x02 (R135). -/
  | rdU32 (off : BitVec 16)
  /-- RD_U64, `OP` = 0x03 (R136). -/
  | rdU64 (off : BitVec 16)
  /-- RD_I16, `OP` = 0x04 (R137). -/
  | rdI16 (off : BitVec 16)
  /-- RD_F32, `OP` = 0x05 (R138). -/
  | rdF32 (off : BitVec 16)
  /-- RD_BYTES, `OP` = 0x06 (R139). -/
  | rdBytes (off : BitVec 16) (n : BitVec 16)
  /-- RD_BITS, `OP` = 0x07 (R149). -/
  | rdBits (off : BitVec 16) (bitoff : BitVec 4) (bitw : BitVec 5)
  /-- WR_U8, `OP` = 0x08 (R140). -/
  | wrU8 (off : BitVec 16)
  /-- WR_U16, `OP` = 0x09 (R141). -/
  | wrU16 (off : BitVec 16)
  /-- WR_U32, `OP` = 0x0A (R142). -/
  | wrU32 (off : BitVec 16)
  /-- WR_U64, `OP` = 0x0B (R143). -/
  | wrU64 (off : BitVec 16)
  /-- WR_I16, `OP` = 0x0C (R144). -/
  | wrI16 (off : BitVec 16)
  /-- WR_F32, `OP` = 0x0D (R145). -/
  | wrF32 (off : BitVec 16)
  /-- WR_BYTES, `OP` = 0x0E (R146). -/
  | wrBytes (off : BitVec 16) (n : BitVec 16)
  /-- WR_BITS, `OP` = 0x0F (R150). -/
  | wrBits (off : BitVec 16) (bitoff : BitVec 4) (bitw : BitVec 5)
  /-- ENC_HDR, `OP` = 0x10 (R173). -/
  | encHdr
  /-- DEC_HDR, `OP` = 0x11 (R174). -/
  | decHdr
  /-- LOOKUP, `OP` = 0x12 (R240). -/
  | lookup (mtype : BitVec 16)
  /-- ENC_PLD, `OP` = 0x13 (R241). -/
  | encPld
  /-- DEC_PLD, `OP` = 0x14 (R242). -/
  | decPld (mtype : BitVec 16)
  /-- ASSEMBLE, `OP` = 0x15 (R260). -/
  | assemble
  /-- PARSE, `OP` = 0x16 (R261). -/
  | parse
  /-- GET_SERVICE, message type 2 (R196). -/
  | getService
  /-- STATE_SERVICE, message type 3 (R197). -/
  | stateService
  /-- GET_HOST_INFO, message type 12 (R198). -/
  | getHostInfo
  /-- STATE_HOST_INFO, message type 13 (R199). -/
  | stateHostInfo
  /-- GET_HOST_FIRMWARE, message type 14 (R200). -/
  | getHostFirmware
  /-- STATE_HOST_FIRMWARE, message type 15 (R201). -/
  | stateHostFirmware
  /-- GET_WIFI_INFO, message type 16 (R202). -/
  | getWifiInfo
  /-- STATE_WIFI_INFO, message type 17 (R203). -/
  | stateWifiInfo
  /-- GET_WIFI_FIRMWARE, message type 18 (R204). -/
  | getWifiFirmware
  /-- STATE_WIFI_FIRMWARE, message type 19 (R205). -/
  | stateWifiFirmware
  /-- GET_POWER, message type 20 (R206). -/
  | getPower
  /-- SET_POWER, message type 21 (R207). -/
  | setPower
  /-- STATE_POWER, message type 22 (R208). -/
  | statePower
  /-- GET_LABEL, message type 23 (R209). -/
  | getLabel
  /-- SET_LABEL, message type 24 (R210). -/
  | setLabel
  /-- STATE_LABEL, message type 25 (R211). -/
  | stateLabel
  /-- GET_VERSION, message type 32 (R212). -/
  | getVersion
  /-- STATE_VERSION, message type 33 (R213). -/
  | stateVersion
  /-- GET_INFO, message type 34 (R214). -/
  | getInfo
  /-- STATE_INFO, message type 35 (R215). -/
  | stateInfo
  /-- ACKNOWLEDGEMENT, message type 45 (R216). -/
  | acknowledgement
  /-- GET_LOCATION, message type 48 (R217). -/
  | getLocation
  /-- SET_LOCATION, message type 49 (R218). -/
  | setLocation
  /-- STATE_LOCATION, message type 50 (R219). -/
  | stateLocation
  /-- GET_GROUP, message type 51 (R220). -/
  | getGroup
  /-- SET_GROUP, message type 52 (R221). -/
  | setGroup
  /-- STATE_GROUP, message type 53 (R222). -/
  | stateGroup
  /-- GET_UNKNOWN, message type 54 (R223). -/
  | getUnknown
  /-- SET_UNKNOWN, message type 55 (R224). -/
  | setUnknown
  /-- STATE_UNKNOWN, message type 56 (R225). -/
  | stateUnknown
  /-- ECHO_REQUEST, message type 58 (R226). -/
  | echoRequest
  /-- ECHO_RESPONSE, message type 59 (R227). -/
  | echoResponse
  /-- LIGHT_GET, message type 101 (R228). -/
  | lightGet
  /-- LIGHT_SET_COLOR, message type 102 (R229). -/
  | lightSetColor
  /-- LIGHT_SET_WAVEFORM, message type 103 (R230). -/
  | lightSetWaveform
  /-- LIGHT_STATE, message type 107 (R231). -/
  | lightState
  /-- LIGHT_GET_POWER, message type 116 (R232). -/
  | lightGetPower
  /-- LIGHT_SET_POWER, message type 117 (R233). -/
  | lightSetPower
  /-- LIGHT_STATE_POWER, message type 118 (R234). -/
  | lightStatePower
  /-- LIGHT_SET_WAVEFORM_OPTIONAL, message type 119 (R235). -/
  | lightSetWaveformOptional
  /-- LIGHT_GET_INFRARED, message type 120 (R236). -/
  | lightGetInfrared
  /-- LIGHT_STATE_INFRARED, message type 121 (R237). -/
  | lightStateInfrared
  /-- LIGHT_SET_INFRARED, message type 122 (R238). -/
  | lightSetInfrared
deriving DecidableEq, Repr

end Sys2Proof
end

