-- ==== Sys2Proof/WellFormed.lean ====
section
/-! DEFINITION. Which instructions are well formed: a bit field lies in one 16-bit container (40_primitive_codec.md R147), and the
offset and the count or message type fit the width `OFF_BITS` of their fields (00_scope.md R9, 20_memory.md R62). An ill-formed bit
field still runs: the operation raises IllegalOperation (R147). An operand that does not fit has no word. -/

namespace Sys2Proof

/-- The bit-field operands are legal for the operation (R147). -/
def Instr.bitFieldOk : Instr → Bool
  | .rdBits _ bitoff bitw => Machine.bitFieldLegal bitoff.toNat bitw.toNat
  | .wrBits _ bitoff bitw => Machine.bitFieldLegal bitoff.toNat bitw.toNat
  | .rdU8 _ | .rdU16 _ | .rdU32 _ | .rdU64 _ | .rdI16 _ | .rdF32 _ | .rdBytes _ _ | .wrU8 _ | .wrU16 _ | .wrU32 _
  | .wrU64 _ | .wrI16 _ | .wrF32 _ | .wrBytes _ _ | .encHdr | .decHdr | .lookup _ | .encPld | .decPld _ | .assemble
  | .parse | .getService | .stateService | .getHostInfo | .stateHostInfo | .getHostFirmware | .stateHostFirmware
  | .getWifiInfo | .stateWifiInfo | .getWifiFirmware | .stateWifiFirmware | .getPower | .setPower | .statePower
  | .getLabel | .setLabel | .stateLabel | .getVersion | .stateVersion | .getInfo | .stateInfo | .acknowledgement
  | .getLocation | .setLocation | .stateLocation | .getGroup | .setGroup | .stateGroup | .getUnknown | .setUnknown
  | .stateUnknown | .echoRequest | .echoResponse | .lightGet | .lightSetColor | .lightSetWaveform | .lightState
  | .lightGetPower | .lightSetPower | .lightStatePower | .lightSetWaveformOptional | .lightGetInfrared
  | .lightStateInfrared | .lightSetInfrared => true

/-- The byte offset of an operation, 0 where it uses none (30_encoding.md R94). -/
def Instr.off : Instr → BitVec 16
  | .rdU8 off | .rdU16 off | .rdU32 off | .rdU64 off | .rdI16 off | .rdF32 off | .rdBytes off _ | .rdBits off _ _
  | .wrU8 off | .wrU16 off | .wrU32 off | .wrU64 off | .wrI16 off | .wrF32 off | .wrBytes off _ | .wrBits off _ _ => off
  | .encHdr | .decHdr | .lookup _ | .encPld | .decPld _ | .assemble | .parse
  | .getService | .stateService | .getHostInfo | .stateHostInfo | .getHostFirmware | .stateHostFirmware
  | .getWifiInfo | .stateWifiInfo | .getWifiFirmware | .stateWifiFirmware | .getPower | .setPower | .statePower
  | .getLabel | .setLabel | .stateLabel | .getVersion | .stateVersion | .getInfo | .stateInfo | .acknowledgement
  | .getLocation | .setLocation | .stateLocation | .getGroup | .setGroup | .stateGroup | .getUnknown | .setUnknown
  | .stateUnknown | .echoRequest | .echoResponse | .lightGet | .lightSetColor | .lightSetWaveform | .lightState
  | .lightGetPower | .lightSetPower | .lightStatePower | .lightSetWaveformOptional | .lightGetInfrared
  | .lightStateInfrared | .lightSetInfrared => 0

/-- The byte count or message type of an operation, 0 where it uses none (30_encoding.md R94). -/
def Instr.aux : Instr → BitVec 16
  | .rdBytes _ n | .wrBytes _ n => n
  | .lookup mtype | .decPld mtype => mtype
  | .rdU8 _ | .rdU16 _ | .rdU32 _ | .rdU64 _ | .rdI16 _ | .rdF32 _ | .rdBits _ _ _ | .wrU8 _ | .wrU16 _ | .wrU32 _
  | .wrU64 _ | .wrI16 _ | .wrF32 _ | .wrBits _ _ _ | .encHdr | .decHdr | .encPld | .assemble | .parse
  | .getService | .stateService | .getHostInfo | .stateHostInfo | .getHostFirmware | .stateHostFirmware
  | .getWifiInfo | .stateWifiInfo | .getWifiFirmware | .stateWifiFirmware | .getPower | .setPower | .statePower
  | .getLabel | .setLabel | .stateLabel | .getVersion | .stateVersion | .getInfo | .stateInfo | .acknowledgement
  | .getLocation | .setLocation | .stateLocation | .getGroup | .setGroup | .stateGroup | .getUnknown | .setUnknown
  | .stateUnknown | .echoRequest | .echoResponse | .lightGet | .lightSetColor | .lightSetWaveform | .lightState
  | .lightGetPower | .lightSetPower | .lightStatePower | .lightSetWaveformOptional | .lightGetInfrared
  | .lightStateInfrared | .lightSetInfrared => 0

/-- The operands fit the fields of a block with this `OFF_BITS` (R9, R62; log 4). At the default every operand does. -/
def Instr.operandsFit (offBits : Nat) (i : Instr) : Bool := i.off.toNat < 2 ^ offBits && i.aux.toNat < 2 ^ offBits

/-- The instruction is well formed for a block with this `OFF_BITS`. -/
def Instr.wf (offBits : Nat) (i : Instr) : Bool := i.bitFieldOk && i.operandsFit offBits

end Sys2Proof
end

