-- ==== Sys2Proof/Decode.lean ====
section
/-! DEFINITION. The two word formats, the decoder and, after it, the encoder (30_encoding.md R90 to R95, R107, R108). The command
word is a 64-bit port and has no byte order; a message-type word is the 16-bit code itself. -/

namespace Sys2Proof

/-- A word the host presents for one transaction: a command word on `CMD` (R90), or the message-type code of a row of the
table's MSGTYPE format (R107; log 1). -/
inductive FetchWord where
  | command (w : BitVec 64)
  | messageType (w : BitVec 16)
deriving DecidableEq, Repr

/-- Why a word selects no instruction. -/
inductive DecodeError where
  /-- `RSV0 ≠ 0` or `RSV1 ≠ 0` (R91). -/
  | reservedBits
  /-- `OP` in 0x17..0x1F (R93). -/
  | unassignedOp
  /-- A message-type code outside the catalog (R108). -/
  | unregisteredType
deriving DecidableEq, Repr

/-- `CMD[4:0]`, the operation code (R90). -/
def cmdOp (w : BitVec 64) : BitVec 5 := w.extractLsb' 0 5

/-- `CMD[7:5]`, reserved (R90). -/
def cmdRsv0 (w : BitVec 64) : BitVec 3 := w.extractLsb' 5 3

/-- `CMD[11:8]`, the bit offset (R90). -/
def cmdBitoff (w : BitVec 64) : BitVec 4 := w.extractLsb' 8 4

/-- `CMD[16:12]`, the bit width (R90). -/
def cmdBitw (w : BitVec 64) : BitVec 5 := w.extractLsb' 12 5

/-- `CMD[31:17]`, reserved (R90). -/
def cmdRsv1 (w : BitVec 64) : BitVec 15 := w.extractLsb' 17 15

/-- The low `n` bits of one of the two 16-bit places of the command word, zero-extended: the field that a block with
`OFF_BITS = n` has there (R9, R95; where the field lies for `n < 16` is a DESIGN CHOICE, log 4). -/
def lowBits (n : Nat) (v : BitVec 16) : BitVec 16 := BitVec.ofNat 16 (v.toNat % 2 ^ n)

/-- The byte offset: `CMD[47:32]` at the default `OFF_BITS`, the low `OFF_BITS` bits of it otherwise (R9, R90; log 4). -/
def cmdOff (offBits : Nat) (w : BitVec 64) : BitVec 16 := lowBits offBits (w.extractLsb' 32 16)

/-- The byte count or message type: `CMD[63:48]` at the default `OFF_BITS`, the low `OFF_BITS` bits of it otherwise (R9, R90;
log 4). -/
def cmdAux (offBits : Nat) (w : BitVec 64) : BitVec 16 := lowBits offBits (w.extractLsb' 48 16)

/-- The operation that `OP` selects, with the fields it uses (R92, R94, R95); every other field is ignored (R91). -/
def decodeOp (offBits : Nat) (w : BitVec 64) : Except DecodeError Instr :=
  match (cmdOp w).toNat with
  | 0 => .ok (.rdU8 (cmdOff offBits w))
  | 1 => .ok (.rdU16 (cmdOff offBits w))
  | 2 => .ok (.rdU32 (cmdOff offBits w))
  | 3 => .ok (.rdU64 (cmdOff offBits w))
  | 4 => .ok (.rdI16 (cmdOff offBits w))
  | 5 => .ok (.rdF32 (cmdOff offBits w))
  | 6 => .ok (.rdBytes (cmdOff offBits w) (cmdAux offBits w))
  | 7 => .ok (.rdBits (cmdOff offBits w) (cmdBitoff w) (cmdBitw w))
  | 8 => .ok (.wrU8 (cmdOff offBits w))
  | 9 => .ok (.wrU16 (cmdOff offBits w))
  | 10 => .ok (.wrU32 (cmdOff offBits w))
  | 11 => .ok (.wrU64 (cmdOff offBits w))
  | 12 => .ok (.wrI16 (cmdOff offBits w))
  | 13 => .ok (.wrF32 (cmdOff offBits w))
  | 14 => .ok (.wrBytes (cmdOff offBits w) (cmdAux offBits w))
  | 15 => .ok (.wrBits (cmdOff offBits w) (cmdBitoff w) (cmdBitw w))
  | 16 => .ok .encHdr
  | 17 => .ok .decHdr
  | 18 => .ok (.lookup (cmdAux offBits w))
  | 19 => .ok .encPld
  | 20 => .ok (.decPld (cmdAux offBits w))
  | 21 => .ok .assemble
  | 22 => .ok .parse
  | _ => .error .unassignedOp

/-- A command word: the reserved fields first, then `OP` (R91, R93, R284). -/
def decodeCommand (offBits : Nat) (w : BitVec 64) : Except DecodeError Instr :=
  if cmdRsv0 w ≠ 0 ∨ cmdRsv1 w ≠ 0 then .error .reservedBits else decodeOp offBits w

/-- A message-type word, compared whole (R107); every other code is unregistered (R108). -/
def decodeMessageType (w : BitVec 16) : Except DecodeError Instr :=
  match w.toNat with
  | 2 => .ok .getService
  | 3 => .ok .stateService
  | 12 => .ok .getHostInfo
  | 13 => .ok .stateHostInfo
  | 14 => .ok .getHostFirmware
  | 15 => .ok .stateHostFirmware
  | 16 => .ok .getWifiInfo
  | 17 => .ok .stateWifiInfo
  | 18 => .ok .getWifiFirmware
  | 19 => .ok .stateWifiFirmware
  | 20 => .ok .getPower
  | 21 => .ok .setPower
  | 22 => .ok .statePower
  | 23 => .ok .getLabel
  | 24 => .ok .setLabel
  | 25 => .ok .stateLabel
  | 32 => .ok .getVersion
  | 33 => .ok .stateVersion
  | 34 => .ok .getInfo
  | 35 => .ok .stateInfo
  | 45 => .ok .acknowledgement
  | 48 => .ok .getLocation
  | 49 => .ok .setLocation
  | 50 => .ok .stateLocation
  | 51 => .ok .getGroup
  | 52 => .ok .setGroup
  | 53 => .ok .stateGroup
  | 54 => .ok .getUnknown
  | 55 => .ok .setUnknown
  | 56 => .ok .stateUnknown
  | 58 => .ok .echoRequest
  | 59 => .ok .echoResponse
  | 101 => .ok .lightGet
  | 102 => .ok .lightSetColor
  | 103 => .ok .lightSetWaveform
  | 107 => .ok .lightState
  | 116 => .ok .lightGetPower
  | 117 => .ok .lightSetPower
  | 118 => .ok .lightStatePower
  | 119 => .ok .lightSetWaveformOptional
  | 120 => .ok .lightGetInfrared
  | 121 => .ok .lightStateInfrared
  | 122 => .ok .lightSetInfrared
  | _ => .error .unregisteredType

/-- The decoder of a block with the parameter `OFF_BITS` (R9), total on the words of both formats. -/
def decode (offBits : Nat) : FetchWord → Except DecodeError Instr
  | .command w => decodeCommand offBits w
  | .messageType w => decodeMessageType w

/-- The word of a table row whose bits are `w`: the MSGTYPE rows have 16 bits of code (24 in the reader's "fields" of
STATE_WIFI_FIRMWARE, which are no bits of the code: log 2), the CMD64 rows 32 bits or more. -/
def tableWord (nbits w : Nat) : FetchWord :=
  if nbits < 32 then .messageType (BitVec.ofNat 16 w) else .command (BitVec.ofNat 64 w)

/-- The instruction the decoder reads from a row of spec/opcode_table.json, which is written for the default `OFF_BITS`. -/
def decodeTableWord (nbits w : Nat) : Option Instr := (decode Config.offBits (tableWord nbits w)).toOption

/-- The command word with each given field at its lowest bit and zero reserved fields (R90). -/
def packCommand (op : BitVec 5) (bitoff : BitVec 4) (bitw : BitVec 5) (off aux : BitVec 16) : BitVec 64 :=
  BitVec.ofNat 64
    (op.toNat + bitoff.toNat * 2 ^ 8 + bitw.toNat * 2 ^ 12 + off.toNat * 2 ^ 32 + aux.toNat * 2 ^ 48)

/-- The word of an instruction; a field that the operation does not use is 0 (R120). It is the same for every `OFF_BITS` that its
operands fit. -/
def encode : Instr → FetchWord
  | .rdU8 off => .command (packCommand 0x00#5 0 0 off 0)
  | .rdU16 off => .command (packCommand 0x01#5 0 0 off 0)
  | .rdU32 off => .command (packCommand 0x02#5 0 0 off 0)
  | .rdU64 off => .command (packCommand 0x03#5 0 0 off 0)
  | .rdI16 off => .command (packCommand 0x04#5 0 0 off 0)
  | .rdF32 off => .command (packCommand 0x05#5 0 0 off 0)
  | .rdBytes off n => .command (packCommand 0x06#5 0 0 off n)
  | .rdBits off bitoff bitw => .command (packCommand 0x07#5 bitoff bitw off 0)
  | .wrU8 off => .command (packCommand 0x08#5 0 0 off 0)
  | .wrU16 off => .command (packCommand 0x09#5 0 0 off 0)
  | .wrU32 off => .command (packCommand 0x0A#5 0 0 off 0)
  | .wrU64 off => .command (packCommand 0x0B#5 0 0 off 0)
  | .wrI16 off => .command (packCommand 0x0C#5 0 0 off 0)
  | .wrF32 off => .command (packCommand 0x0D#5 0 0 off 0)
  | .wrBytes off n => .command (packCommand 0x0E#5 0 0 off n)
  | .wrBits off bitoff bitw => .command (packCommand 0x0F#5 bitoff bitw off 0)
  | .encHdr => .command (packCommand 0x10#5 0 0 0 0)
  | .decHdr => .command (packCommand 0x11#5 0 0 0 0)
  | .lookup mtype => .command (packCommand 0x12#5 0 0 0 mtype)
  | .encPld => .command (packCommand 0x13#5 0 0 0 0)
  | .decPld mtype => .command (packCommand 0x14#5 0 0 0 mtype)
  | .assemble => .command (packCommand 0x15#5 0 0 0 0)
  | .parse => .command (packCommand 0x16#5 0 0 0 0)
  | .getService => .messageType 2#16
  | .stateService => .messageType 3#16
  | .getHostInfo => .messageType 12#16
  | .stateHostInfo => .messageType 13#16
  | .getHostFirmware => .messageType 14#16
  | .stateHostFirmware => .messageType 15#16
  | .getWifiInfo => .messageType 16#16
  | .stateWifiInfo => .messageType 17#16
  | .getWifiFirmware => .messageType 18#16
  | .stateWifiFirmware => .messageType 19#16
  | .getPower => .messageType 20#16
  | .setPower => .messageType 21#16
  | .statePower => .messageType 22#16
  | .getLabel => .messageType 23#16
  | .setLabel => .messageType 24#16
  | .stateLabel => .messageType 25#16
  | .getVersion => .messageType 32#16
  | .stateVersion => .messageType 33#16
  | .getInfo => .messageType 34#16
  | .stateInfo => .messageType 35#16
  | .acknowledgement => .messageType 45#16
  | .getLocation => .messageType 48#16
  | .setLocation => .messageType 49#16
  | .stateLocation => .messageType 50#16
  | .getGroup => .messageType 51#16
  | .setGroup => .messageType 52#16
  | .stateGroup => .messageType 53#16
  | .getUnknown => .messageType 54#16
  | .setUnknown => .messageType 55#16
  | .stateUnknown => .messageType 56#16
  | .echoRequest => .messageType 58#16
  | .echoResponse => .messageType 59#16
  | .lightGet => .messageType 101#16
  | .lightSetColor => .messageType 102#16
  | .lightSetWaveform => .messageType 103#16
  | .lightState => .messageType 107#16
  | .lightGetPower => .messageType 116#16
  | .lightSetPower => .messageType 117#16
  | .lightStatePower => .messageType 118#16
  | .lightSetWaveformOptional => .messageType 119#16
  | .lightGetInfrared => .messageType 120#16
  | .lightStateInfrared => .messageType 121#16
  | .lightSetInfrared => .messageType 122#16

/-- The message-type code of a row of the MSGTYPE format; `none` for an operation of the command word. -/
def messageCode (i : Instr) : Option (BitVec 16) :=
  match encode i with
  | .command _ => none
  | .messageType w => some w

end Sys2Proof
end

