-- ==== Sys2Proof/Machine/Records.lean ====
section
/-! DEFINITION. The records carried on the ports (10_state.md R35 to R37) and the shape of the registry (42_payload_registry.md
R190, 30_encoding.md R105). Types only; the contents and the operations over them stand in Machine/Registry.lean and
Machine/Ops.lean. -/

namespace Sys2Proof.Machine

/-- The header record (R35). Reserved bits and bytes of the wire header are not fields of it (R170). -/
structure Header where
  size : BitVec 16
  protocol : BitVec 12
  addressable : BitVec 1
  tagged : BitVec 1
  origin : BitVec 2
  source : BitVec 32
  target : Vector Byte 8
  siteId : Vector Byte 6
  resRequired : BitVec 1
  ackRequired : BitVec 1
  sequence : BitVec 8
  timestamp : BitVec 64
  messageType : BitVec 16
deriving DecidableEq, Repr

/-- The HSBK composite: four u16 values in this order (R37, R239). -/
structure Hsbk where
  hue : BitVec 16
  saturation : BitVec 16
  brightness : BitVec 16
  kelvin : BitVec 16
deriving DecidableEq, Repr

/-- The names of payload fields (R196 to R238). No rule depends on a name (R195); a registry other than the default may use
`other`. Reserved fields carry the name `reserved` and are no fields of a record (R194). -/
inductive FieldName where
  | service | port | signal | tx | rx | build | version | level | duration | label | vendor | product
  | time | uptime | downtime | location | group | updatedAt | data | echoing | color | transient | period
  | cycles | skewRatio | waveform | power | setHue | setSaturation | setBrightness | setKelvin | brightness
  | reserved
  | other (n : Nat)
deriving DecidableEq, Repr

/-- The kinds of payload fields (R105, R192). -/
inductive Kind where
  | u8 | u16 | i16 | u32 | f32 | u64
  | bytes (n : Nat)
  | hsbk
  | reserved (n : Nat)
deriving DecidableEq, Repr

/-- A field of a layout: payload offset, name, kind (R190). -/
structure Field where
  offset : Nat
  name : FieldName
  kind : Kind
deriving DecidableEq, Repr

/-- A registered message type: its code, the payload length `L(mt)` and its layout, in offset order (R190, R241). -/
structure Entry where
  mtype : BitVec 16
  length : Nat
  layout : List Field
deriving DecidableEq, Repr

/-- The registry, a finite map from message type to length and layout (R190). -/
abbrev Registry := List Entry

/-- The value of a payload field, one constructor per kind. An i16 is held as its two's-complement pattern and an f32 as its
binary32 pattern (R12). -/
inductive Value where
  | u8 (v : BitVec 8)
  | u16 (v : BitVec 16)
  | i16 (v : BitVec 16)
  | u32 (v : BitVec 32)
  | f32 (v : BitVec 32)
  | u64 (v : BitVec 64)
  | bytes (b : Bytes)
  | hsbk (c : Hsbk)
deriving DecidableEq, Repr

/-- The payload record: the tag and the values of the fields of the tag's layout, in the layout's order (R36; log 9). -/
structure Payload where
  mtype : BitVec 16
  fields : List (FieldName × Value)
deriving DecidableEq, Repr

end Sys2Proof.Machine
end

