-- ==== Sys2Proof/Machine/Registry.lean ====
section
/-! DEFINITION. The registry: looking a type up (42_payload_registry.md R190, R240), the constraints on any registry (R191), and
the default registry (R195 to R238), one definition per message type. -/

namespace Sys2Proof.Machine

/-- The bytes a field occupies (R105). -/
def Kind.size : Kind → Nat
  | .u8 => 1
  | .u16 => 2
  | .i16 => 2
  | .u32 => 4
  | .f32 => 4
  | .u64 => 8
  | .bytes n => n
  | .hsbk => Config.hsbkLen
  | .reserved n => n

/-- A reserved field is not a field of the record (R194). -/
def Kind.isReserved : Kind → Bool
  | .reserved _ => true
  | .u8 | .u16 | .i16 | .u32 | .f32 | .u64 | .bytes _ | .hsbk => false

/-- The registered entry of a type; `none` when `mt ∉ dom(REGISTRY)` (R190). -/
def Registry.find (r : Registry) (mt : BitVec 16) : Option Entry := List.find? (fun e => e.mtype == mt) r

/-- GET_SERVICE (R196). -/
def entryGetService : Entry :=
  ⟨2, 0, []⟩

/-- STATE_SERVICE (R197). -/
def entryStateService : Entry :=
  ⟨3, 5, [⟨0, .service, .u8⟩, ⟨1, .port, .u32⟩]⟩

/-- GET_HOST_INFO (R198). -/
def entryGetHostInfo : Entry :=
  ⟨12, 0, []⟩

/-- STATE_HOST_INFO (R199). -/
def entryStateHostInfo : Entry :=
  ⟨13, 14, [⟨0, .signal, .f32⟩, ⟨4, .tx, .u32⟩, ⟨8, .rx, .u32⟩, ⟨12, .reserved, .reserved 2⟩]⟩

/-- GET_HOST_FIRMWARE (R200). -/
def entryGetHostFirmware : Entry :=
  ⟨14, 0, []⟩

/-- STATE_HOST_FIRMWARE (R201). -/
def entryStateHostFirmware : Entry :=
  ⟨15, 20, [⟨0, .build, .u64⟩, ⟨8, .reserved, .reserved 8⟩, ⟨16, .version, .u32⟩]⟩

/-- GET_WIFI_INFO (R202). -/
def entryGetWifiInfo : Entry :=
  ⟨16, 0, []⟩

/-- STATE_WIFI_INFO (R203). -/
def entryStateWifiInfo : Entry :=
  ⟨17, 14, [⟨0, .signal, .f32⟩, ⟨4, .tx, .u32⟩, ⟨8, .rx, .u32⟩, ⟨12, .reserved, .reserved 2⟩]⟩

/-- GET_WIFI_FIRMWARE (R204). -/
def entryGetWifiFirmware : Entry :=
  ⟨18, 0, []⟩

/-- STATE_WIFI_FIRMWARE (R205). -/
def entryStateWifiFirmware : Entry :=
  ⟨19, 20, [⟨0, .build, .u64⟩, ⟨8, .reserved, .reserved 8⟩, ⟨16, .version, .u32⟩]⟩

/-- GET_POWER (R206). -/
def entryGetPower : Entry :=
  ⟨20, 0, []⟩

/-- SET_POWER (R207). -/
def entrySetPower : Entry :=
  ⟨21, 6, [⟨0, .level, .u16⟩, ⟨2, .duration, .u32⟩]⟩

/-- STATE_POWER (R208). -/
def entryStatePower : Entry :=
  ⟨22, 2, [⟨0, .level, .u16⟩]⟩

/-- GET_LABEL (R209). -/
def entryGetLabel : Entry :=
  ⟨23, 0, []⟩

/-- SET_LABEL (R210). -/
def entrySetLabel : Entry :=
  ⟨24, 32, [⟨0, .label, .bytes 32⟩]⟩

/-- STATE_LABEL (R211). -/
def entryStateLabel : Entry :=
  ⟨25, 32, [⟨0, .label, .bytes 32⟩]⟩

/-- GET_VERSION (R212). -/
def entryGetVersion : Entry :=
  ⟨32, 0, []⟩

/-- STATE_VERSION (R213). -/
def entryStateVersion : Entry :=
  ⟨33, 12, [⟨0, .vendor, .u32⟩, ⟨4, .product, .u32⟩, ⟨8, .version, .u32⟩]⟩

/-- GET_INFO (R214). -/
def entryGetInfo : Entry :=
  ⟨34, 0, []⟩

/-- STATE_INFO (R215). -/
def entryStateInfo : Entry :=
  ⟨35, 24, [⟨0, .time, .u64⟩, ⟨8, .uptime, .u64⟩, ⟨16, .downtime, .u64⟩]⟩

/-- ACKNOWLEDGEMENT (R216). -/
def entryAcknowledgement : Entry :=
  ⟨45, 0, []⟩

/-- GET_LOCATION (R217). -/
def entryGetLocation : Entry :=
  ⟨48, 0, []⟩

/-- SET_LOCATION (R218). -/
def entrySetLocation : Entry :=
  ⟨49, 56, [⟨0, .location, .bytes 16⟩, ⟨16, .label, .bytes 32⟩, ⟨48, .updatedAt, .u64⟩]⟩

/-- STATE_LOCATION (R219). -/
def entryStateLocation : Entry :=
  ⟨50, 56, [⟨0, .location, .bytes 16⟩, ⟨16, .label, .bytes 32⟩, ⟨48, .updatedAt, .u64⟩]⟩

/-- GET_GROUP (R220). -/
def entryGetGroup : Entry :=
  ⟨51, 0, []⟩

/-- SET_GROUP (R221). -/
def entrySetGroup : Entry :=
  ⟨52, 56, [⟨0, .group, .bytes 16⟩, ⟨16, .label, .bytes 32⟩, ⟨48, .updatedAt, .u64⟩]⟩

/-- STATE_GROUP (R222). -/
def entryStateGroup : Entry :=
  ⟨53, 56, [⟨0, .group, .bytes 16⟩, ⟨16, .label, .bytes 32⟩, ⟨48, .updatedAt, .u64⟩]⟩

/-- GET_UNKNOWN (R223). -/
def entryGetUnknown : Entry :=
  ⟨54, 0, []⟩

/-- SET_UNKNOWN (R224). -/
def entrySetUnknown : Entry :=
  ⟨55, 56, [⟨0, .data, .bytes 56⟩]⟩

/-- STATE_UNKNOWN (R225). -/
def entryStateUnknown : Entry :=
  ⟨56, 56, [⟨0, .data, .bytes 56⟩]⟩

/-- ECHO_REQUEST (R226). -/
def entryEchoRequest : Entry :=
  ⟨58, 64, [⟨0, .echoing, .bytes 64⟩]⟩

/-- ECHO_RESPONSE (R227). -/
def entryEchoResponse : Entry :=
  ⟨59, 64, [⟨0, .echoing, .bytes 64⟩]⟩

/-- LIGHT_GET (R228). -/
def entryLightGet : Entry :=
  ⟨101, 0, []⟩

/-- LIGHT_SET_COLOR (R229). -/
def entryLightSetColor : Entry :=
  ⟨102, 13, [⟨0, .reserved, .reserved 1⟩, ⟨1, .color, .hsbk⟩, ⟨9, .duration, .u32⟩]⟩

/-- LIGHT_SET_WAVEFORM (R230). -/
def entryLightSetWaveform : Entry :=
  ⟨103, 21,
    [⟨0, .reserved, .reserved 1⟩, ⟨1, .transient, .u8⟩, ⟨2, .color, .hsbk⟩, ⟨10, .period, .u32⟩,
      ⟨14, .cycles, .f32⟩, ⟨18, .skewRatio, .i16⟩, ⟨20, .waveform, .u8⟩]⟩

/-- LIGHT_STATE (R231). -/
def entryLightState : Entry :=
  ⟨107, 52,
    [⟨0, .color, .hsbk⟩, ⟨8, .reserved, .reserved 2⟩, ⟨10, .power, .u16⟩,
      ⟨12, .label, .bytes 32⟩, ⟨44, .reserved, .reserved 8⟩]⟩

/-- LIGHT_GET_POWER (R232). -/
def entryLightGetPower : Entry :=
  ⟨116, 0, []⟩

/-- LIGHT_SET_POWER (R233). -/
def entryLightSetPower : Entry :=
  ⟨117, 6, [⟨0, .level, .u16⟩, ⟨2, .duration, .u32⟩]⟩

/-- LIGHT_STATE_POWER (R234). -/
def entryLightStatePower : Entry :=
  ⟨118, 2, [⟨0, .level, .u16⟩]⟩

/-- LIGHT_SET_WAVEFORM_OPTIONAL (R235). -/
def entryLightSetWaveformOptional : Entry :=
  ⟨119, 25,
    [⟨0, .reserved, .reserved 1⟩, ⟨1, .transient, .u8⟩, ⟨2, .color, .hsbk⟩, ⟨10, .period, .u32⟩, ⟨14, .cycles, .f32⟩, ⟨18, .skewRatio, .i16⟩,
      ⟨20, .waveform, .u8⟩, ⟨21, .setHue, .u8⟩, ⟨22, .setSaturation, .u8⟩, ⟨23, .setBrightness, .u8⟩, ⟨24, .setKelvin, .u8⟩]⟩

/-- LIGHT_GET_INFRARED (R236). -/
def entryLightGetInfrared : Entry :=
  ⟨120, 0, []⟩

/-- LIGHT_STATE_INFRARED (R237). -/
def entryLightStateInfrared : Entry :=
  ⟨121, 2, [⟨0, .brightness, .u16⟩]⟩

/-- LIGHT_SET_INFRARED (R238). -/
def entryLightSetInfrared : Entry :=
  ⟨122, 2, [⟨0, .brightness, .u16⟩]⟩

/-- The device-family entries of the default registry (R195). -/
def deviceEntries : Registry :=
  [ entryGetService, entryStateService, entryGetHostInfo, entryStateHostInfo, entryGetHostFirmware,
    entryStateHostFirmware, entryGetWifiInfo, entryStateWifiInfo, entryGetWifiFirmware, entryStateWifiFirmware,
    entryGetPower, entrySetPower, entryStatePower, entryGetLabel, entrySetLabel, entryStateLabel, entryGetVersion,
    entryStateVersion, entryGetInfo, entryStateInfo, entryAcknowledgement, entryGetLocation, entrySetLocation,
    entryStateLocation, entryGetGroup, entrySetGroup, entryStateGroup, entryGetUnknown, entrySetUnknown,
    entryStateUnknown, entryEchoRequest, entryEchoResponse ]

/-- The light-family entries of the default registry (R195). -/
def lightEntries : Registry :=
  [ entryLightGet, entryLightSetColor, entryLightSetWaveform, entryLightState, entryLightGetPower, entryLightSetPower,
    entryLightStatePower, entryLightSetWaveformOptional, entryLightGetInfrared, entryLightStateInfrared,
    entryLightSetInfrared ]

/-- The default of the parameter `REGISTRY` (R9, R195; log 3, log 19). -/
def defaultRegistry : Registry := deviceEntries ++ lightEntries

/-- The device-family codes of the catalog (R107). -/
def deviceCodes : List (BitVec 16) :=
  [ 2, 3, 12, 13, 14, 15, 16, 17, 18, 19, 20, 21, 22, 23, 24, 25, 32, 33, 34, 35, 45, 48, 49, 50, 51, 52, 53, 54, 55,
    56, 58, 59 ]

/-- The light-family codes of the catalog (R107). -/
def lightCodes : List (BitVec 16) :=
  [ 101, 102, 103, 107, 116, 117, 118, 119, 120, 121, 122 ]

/-- The 43 codes of the catalog (R107). -/
def catalogCodes : List (BitVec 16) := deviceCodes ++ lightCodes

/-- The fields lie end to end from `o` up to `length`: inside the payload, without overlap, covering every byte (R191 item 3,
read with the offset order of R190 and R241; log 17). -/
def layoutTiles : Nat → Nat → List Field → Bool
  | o, length, [] => o == length
  | o, length, f :: fs => f.offset == o && layoutTiles (o + f.kind.size) length fs

/-- A type carries fields when some field of its layout is not reserved (R191 item 7; log 17). -/
def Entry.carriesFields (e : Entry) : Bool := e.layout.any fun f => !f.kind.isReserved

/-- The size range of a type that carries fields: 2..64 for the device family, 2..52 for the light family (R191 item 7). -/
def Entry.sizeInFamily (e : Entry) : Bool :=
  if deviceCodes.contains e.mtype then 2 ≤ e.length && e.length ≤ 64 else 2 ≤ e.length && e.length ≤ 52

/-- The constraints of R191 on one entry: items 2, 3 and 7 (item 6 is the size and order of the kind `hsbk`). -/
def Entry.valid (e : Entry) : Bool :=
  Config.headerLen + e.length ≤ Config.maxPacket && layoutTiles 0 e.length e.layout
    && (!e.carriesFields || e.sizeInFamily)

/-- R191 item 1: the registered types are exactly the 43 codes of R107, each once. -/
def Registry.hasCatalog (r : Registry) : Bool :=
  (r.map Entry.mtype).Nodup && (r.map Entry.mtype).all catalogCodes.contains
    && catalogCodes.all (r.map Entry.mtype).contains

/-- R191 items 4, 5 and 8: the lengths of types 2, 55 and 56 and the layout of type 21. -/
def Registry.keepsSourceEntries (r : Registry) : Bool :=
  (r.find 2).map Entry.length == some 0
    && (r.find 21).map (fun e => (e.length, e.layout)) == some (6, [⟨0, .level, .u16⟩, ⟨2, .duration, .u32⟩])
    && (r.find 55).map Entry.length == some 56 && (r.find 56).map Entry.length == some 56

/-- The constraints that any value of the parameter `REGISTRY` meets (R191). -/
def Registry.valid (r : Registry) : Bool :=
  r.hasCatalog && r.all Entry.valid && r.keepsSourceEntries

end Sys2Proof.Machine
end

