-- ==== Sys2Proof/Machine/State.lean ====
section
/-! DEFINITION. The state of the machine: the ports of one transaction (10_state.md R33, R34) and the registry parameter (R38). The
block itself keeps nothing between transactions (R30, R31, R39). -/

namespace Sys2Proof.Machine

/-- The errors a transaction can end with (60_exceptions.md R281). Taking one is a next state, not a stop (R280). -/
inductive Err where
  | outOfBounds
  | malformedHeader
  | unsupportedProtocol
  | invalidSize
  | unknownMessageType
  | payloadLengthMismatch
  | truncatedPacket
  | payloadTooLarge
  | illegalOperation
deriving DecidableEq, Repr

/-- The output ports (R34). `none` is the spec's own state of a port that carries no value: every port before the first
transaction ends (R40), and after it each port that the operation does not drive or whose `STATUS ≠ OK` (log 8). -/
structure Outputs where
  status : Option (BitVec 4) := none
  rval : Option (BitVec 64) := none
  rdata : Option Bytes := none
  obuf : Option Bytes := none
  olen : Option (BitVec 16) := none
  ohdr : Option Header := none
  opld : Option Payload := none
deriving DecidableEq, Repr

/-- Which of the two formats of the opcode table the host's next word is in. The MODEL's own (log 1). -/
inductive Format where
  | command
  | messageType
deriving DecidableEq, Repr

/-- Which contract of the registry and variant dispatcher a message-type word runs: `lookup` (R240), `encode` (R241) or
`decode` (R242). The MODEL's own (log 1). -/
inductive Contract where
  | lookup
  | encode
  | decode
deriving DecidableEq, Repr

/-- The ports and the two constant parameters. -/
structure State where
  /-- The parameter `REGISTRY`, which no operation writes (R9, R38; log 3). -/
  registry : Registry
  /-- The parameter `OFF_BITS`, which no operation writes (R9; log 4). -/
  offBits : Nat
  /-- The format of the next word; the model's own (log 1). -/
  format : Format
  /-- `CMD`, the command word (R33, R90). -/
  cmd : BitVec 64
  /-- The message-type word; the model's own (log 1). -/
  msgType : BitVec 16
  /-- The contract a message-type word runs; the model's own (log 1). -/
  contract : Contract
  /-- `VAL`, the value to write (R33). -/
  val : BitVec 64
  /-- `IBUF`, the input buffer; `ILEN` is its length (R33, R60). -/
  ibuf : Bytes
  /-- `DATA`, the bytes WR_BYTES copies (R33). -/
  data : Bytes
  /-- `HDR`, the header record to encode (R33, R35). -/
  hdr : Header
  /-- `PLD`, the payload record to encode (R33, R36). -/
  pld : Payload
  /-- The output ports of the last transaction (R34). -/
  out : Outputs
deriving DecidableEq, Repr

/-- Why the machine stops: never. Every error of the spec is a result (R280) and every transaction ends (R317), so no meaning
raises a fault and the type has no constructor (log 16). -/
inductive Fault where
deriving DecidableEq, Repr

/-- Why an instruction is refused. -/
inductive Refusal where
  /-- Raised by an arm of `exec` whose instruction has no meaning yet; no arm raises it. Safe: the model stops. -/
  | notModelled (mnemonic : String)
deriving DecidableEq, Repr

/-- A header record with every field 0. -/
def Header.zero : Header where
  size := 0
  protocol := 0
  addressable := 0
  tagged := 0
  origin := 0
  source := 0
  target := Vector.replicate 8 0
  siteId := Vector.replicate 6 0
  resRequired := 0
  ackRequired := 0
  sequence := 0
  timestamp := 0
  messageType := 0

/-- The machine after reset: the two parameters hold their defaults (R9) and no output port carries a value (R40, R310). The input
ports have no reset value in the spec; the zeros and empty sequences are a DESIGN CHOICE (log 5), unsafe, as are the values of
the model's own fields (log 6). -/
def State.reset : State where
  registry := defaultRegistry
  offBits := Config.offBits
  format := .command
  cmd := 0
  msgType := 0
  contract := .lookup
  val := 0
  ibuf := []
  data := []
  hdr := Header.zero
  pld := ⟨0, []⟩
  out := {}

end Sys2Proof.Machine
end

