-- ==== Sys2Proof/Machine/Flags.lean ====
section
/-! DEFINITION. The block has no condition codes (10_state.md R31): its only flag is the 4-bit `STATUS`, and this file computes it
and the output ports that go with it (R34, 60_exceptions.md R281). -/

namespace Sys2Proof.Machine

/-- `STATUS` of a transaction that succeeds (R281). -/
def statusOk : BitVec 4 := 0

/-- The `STATUS` code of an error (R281). Codes 10 to 15 are never produced. -/
def Err.code : Err → BitVec 4
  | .outOfBounds => 1
  | .malformedHeader => 2
  | .unsupportedProtocol => 3
  | .invalidSize => 4
  | .unknownMessageType => 5
  | .payloadLengthMismatch => 6
  | .truncatedPacket => 7
  | .payloadTooLarge => 8
  | .illegalOperation => 9

/-- The outputs of a failed transaction: `STATUS` alone (R34, R280, R282). -/
def Outputs.error (e : Err) : Outputs := { status := some e.code }

/-- The outputs of a scalar read (R34). -/
def Outputs.okRval (v : BitVec 64) : Outputs := { status := some statusOk, rval := some v }

/-- The outputs of a byte-array read (R34). -/
def Outputs.okRdata (b : Bytes) : Outputs := { status := some statusOk, rdata := some b }

/-- The outputs of a write or encode (R34). -/
def Outputs.okObuf (b : Bytes) : Outputs := { status := some statusOk, obuf := some b }

/-- The outputs of a registry lookup (R34). `OLEN` has 16 bits. -/
def Outputs.okOlen (l : Nat) : Outputs := { status := some statusOk, olen := some (BitVec.ofNat 16 l) }

/-- The outputs of a header decode (R34). -/
def Outputs.okOhdr (h : Header) : Outputs := { status := some statusOk, ohdr := some h }

/-- The outputs of a payload decode (R34). -/
def Outputs.okOpld (p : Payload) : Outputs := { status := some statusOk, opld := some p }

/-- The outputs of a packet parse (R34). -/
def Outputs.okPacket (h : Header) (p : Payload) : Outputs :=
  { status := some statusOk, ohdr := some h, opld := some p }

end Sys2Proof.Machine
end

