-- ==== Sys2Proof/Machine/Ops.lean ====
section
/-! DEFINITION. The shared operations: ending a transaction, byte buffers, the header codec, the payload codec and dispatcher, the
packet codec. Each follows the pseudocode of the rule it cites. -/

namespace Sys2Proof.Machine

/-! ### Ending a transaction -/

/-- Taking an error, the one exception entry of the block: `STATUS` takes the error's code and no other output carries a value;
nothing is saved, no mode changes, no control moves (R280, R282, R287). There is no return from it (R288): the next transaction
behaves as after any other. -/
def State.raise (e : Err) (s : State) : Host.Outcome State Fault Refusal := .next { s with out := Outputs.error e }

/-- The end of a transaction: its outputs replace those of the one before, or its error is taken. Everything else is as it was
(R13, R70). -/
def State.finish (s : State) : Except Err Outputs → Host.Outcome State Fault Refusal
  | .ok o => .next { s with out := o }
  | .error e => State.raise e s

/-- The error of a word that selects no instruction (R91, R93, R108). -/
def errOfDecode : DecodeError → Err
  | .reservedBits => .illegalOperation
  | .unassignedOp => .illegalOperation
  | .unregisteredType => .unknownMessageType

/-- The host presents a word for the next transaction (R32, R33; log 1, log 7). -/
def State.present (s : State) : FetchWord → State
  | .command w => { s with format := .command, cmd := w }
  | .messageType w => { s with format := .messageType, msgType := w }

/-- The word the host presents: the command word on `CMD`, or a message-type word (R33; log 1). -/
def State.fetchWord (s : State) : FetchWord :=
  match s.format with
  | .command => .command s.cmd
  | .messageType => .messageType s.msgType

/-! ### Byte buffers -/

/-- The byte at an offset, if the offset exists (R60). -/
def Memory.read (b : Bytes) (a : Nat) : Option Byte := b[a]?

/-- A buffer as the list of its (offset, byte) pairs. -/
def Memory.cells (b : Bytes) : List Host.Cell := b.zipIdx.map fun x => (x.2, x.1)

/-- The canonical form of a buffer's cells: the offsets are 0, 1, … in rising order, so each offset below `ILEN` is listed once
and no other exists (R60; log 11). -/
def Memory.wf (b : Bytes) : Bool := (Memory.cells b).map Prod.fst == List.range b.length

/-- The little-endian value of a byte sequence (R13, R63). -/
def leValue : Bytes → Nat
  | [] => 0
  | b :: bs => b.toNat + 256 * leValue bs

/-- The `n` low bytes of a value, lowest first (R13, R63). -/
def leBytes : Nat → Nat → Bytes
  | 0, _ => []
  | n + 1, v => BitVec.ofNat 8 v :: leBytes n (v / 256)

/-- `BytesRead(addr, n)`: the bytes at `addr .. addr+n-1`, in order (R13, R65). -/
def bytesRead (b : Bytes) (addr n : Nat) : Bytes := (b.drop addr).take n

/-- `MemRead(addr, n)`: those bytes as a little-endian number (R13, R63). -/
def memRead (b : Bytes) (addr n : Nat) : Nat := leValue (bytesRead b addr n)

/-- `BytesWrite(addr, s)`: the byte at `addr+k` becomes `s[k]`, every other byte and the length stay (R13, R130). -/
def bytesWrite : Bytes → Nat → Bytes → Bytes
  | [], _, _ => []
  | x :: xs, 0, [] => x :: xs
  | _ :: xs, 0, v :: vs => v :: bytesWrite xs 0 vs
  | x :: xs, addr + 1, vs => x :: bytesWrite xs addr vs

/-- `MemWrite(addr, n, v)`: the byte at `addr+k` becomes `v[8k+7:8k]` for `k < n` (R13, R63). -/
def memWrite (b : Bytes) (addr n v : Nat) : Bytes := bytesWrite b addr (leBytes n v)

/-- `n` bytes of 00. -/
def zeroBytes (n : Nat) : Bytes := List.replicate n 0

/-- An access of `w` bytes at offset `o` is in bounds iff `o + w ≤ ILEN` (R64). No alignment is asked (R67).
An access at an offset of the command word that runs past 65535 is in bounds like any other: R64 and R139 decide it, where R62 could
be read to exclude it (DESIGN CHOICE, log 22). -/
def inBounds (b : Bytes) (o w : Nat) : Bool := o + w ≤ b.length

/-- A value read of `w` bytes, after its bounds check (R64, R133 to R138). -/
def readField (b : Bytes) (o w : Nat) : Except Err Nat :=
  if inBounds b o w then .ok (memRead b o w) else .error .outOfBounds

/-- A value write of `w` bytes into a copy of the buffer, after its bounds check (R64, R130, R140 to R145). -/
def writeField (b : Bytes) (o w v : Nat) : Except Err Bytes :=
  if inBounds b o w then .ok (memWrite b o w v) else .error .outOfBounds

/-- A byte-array read (R139). -/
def readBytes (b : Bytes) (o n : Nat) : Except Err Bytes :=
  if inBounds b o n then .ok (bytesRead b o n) else .error .outOfBounds

/-- A byte-array write: the length of the data is checked first (R146). -/
def writeBytes (b : Bytes) (o n : Nat) (data : Bytes) : Except Err Bytes :=
  if data.length ≠ n then .error .illegalOperation
  else if inBounds b o n then .ok (bytesWrite b o data) else .error .outOfBounds

/-- A bit-field read: operands, then bounds of the container, then the field (R147, R149). -/
def readBits (b : Bytes) (o bitoff bitw : Nat) : Except Err Nat :=
  if !bitFieldLegal bitoff bitw then .error .illegalOperation
  else if inBounds b o (containerBytes bitoff bitw) then
    .ok (extractField (memRead b o (containerBytes bitoff bitw)) bitoff bitw)
  else .error .outOfBounds

/-- A bit-field write into a copy of the buffer: operands, then bounds of the container, then the field (R147, R148, R150). -/
def writeBits (b : Bytes) (o bitoff bitw : Nat) (val : BitVec 64) : Except Err Bytes :=
  if !bitFieldLegal bitoff bitw then .error .illegalOperation
  else if inBounds b o (containerBytes bitoff bitw) then
    .ok (memWrite b o (containerBytes bitoff bitw)
      (insertField (memRead b o (containerBytes bitoff bitw)) bitoff bitw val))
  else .error .outOfBounds

/-! ### The header codec -/

/-- `W2`, the word at offset 2: protocol from bit 0, addressable bit 12, tagged bit 13, origin from bit 14 (R101). -/
def headerWord (h : Header) : BitVec 16 :=
  BitVec.ofNat 16
    (h.protocol.toNat + h.addressable.toNat * 2 ^ 12 + h.tagged.toNat * 2 ^ 13 + h.origin.toNat * 2 ^ 14)

/-- Byte 22: `resRequired` in bit 0, `ackRequired` in bit 1, six reserved bits written as 0 (R102, R103). -/
def flagsByte (h : Header) : BitVec 8 := BitVec.ofNat 8 (h.resRequired.toNat + h.ackRequired.toNat * 2)

/-- EncodeHeader: the 36 bytes of a header, with no validation (R173). -/
def encodeHeader (h : Header) : Bytes :=
  let b0 := memWrite (zeroBytes Config.headerLen) 0 2 h.size.toNat
  let b2 := memWrite b0 2 2 (headerWord h).toNat
  let b4 := memWrite b2 4 4 h.source.toNat
  let b8 := bytesWrite b4 8 h.target.toList
  let b16 := bytesWrite b8 16 h.siteId.toList
  let b22 := memWrite b16 22 1 (flagsByte h).toNat
  let b23 := memWrite b22 23 1 h.sequence.toNat
  let b24 := memWrite b23 24 8 h.timestamp.toNat
  memWrite b24 32 2 h.messageType.toNat

/-- A byte-array field of exactly `n` bytes at an offset that the buffer holds (R65). -/
def arrayField (b : Bytes) (addr n : Nat) : Vector Byte n := Vector.ofFn fun k => b.getD (addr + k) 0

/-- The header record that 36 bytes hold; reserved bits and bytes are not read (R170, R174). -/
def headerFields (b : Bytes) : Header where
  size := BitVec.ofNat 16 (memRead b 0 2)
  protocol := (BitVec.ofNat 16 (memRead b 2 2)).extractLsb' 0 12
  addressable := (BitVec.ofNat 16 (memRead b 2 2)).extractLsb' 12 1
  tagged := (BitVec.ofNat 16 (memRead b 2 2)).extractLsb' 13 1
  origin := (BitVec.ofNat 16 (memRead b 2 2)).extractLsb' 14 2
  source := BitVec.ofNat 32 (memRead b 4 4)
  target := arrayField b 8 8
  siteId := arrayField b 16 6
  resRequired := (BitVec.ofNat 8 (memRead b 22 1)).extractLsb' 0 1
  ackRequired := (BitVec.ofNat 8 (memRead b 22 1)).extractLsb' 1 1
  sequence := BitVec.ofNat 8 (memRead b 23 1)
  timestamp := BitVec.ofNat 64 (memRead b 24 8)
  messageType := BitVec.ofNat 16 (memRead b 32 2)

/-- Header validation, in the order of the checks (R171, R172; log 18). -/
def checkHeader (h : Header) : Except Err Header :=
  if h.origin ≠ Config.originRequired then .error .malformedHeader
  else if h.protocol ≠ Config.protocol then .error .unsupportedProtocol
  else if h.size.toNat < Config.headerLen ∨ h.size.toNat > Config.maxPacket then .error .invalidSize
  else .ok h

/-- DecodeHeader: the length check, the validation, the fields (R172, R174). -/
def decodeHeader (b : Bytes) : Except Err Header :=
  if b.length < Config.headerLen then .error .malformedHeader else checkHeader (headerFields b)

/-! ### The payload codec and dispatcher -/

/-- The value is of the field's kind; a byte array has the kind's length (R36, R192). -/
def Value.hasKind : Value → Kind → Bool
  | .u8 _, .u8 => true
  | .u16 _, .u16 => true
  | .i16 _, .i16 => true
  | .u32 _, .u32 => true
  | .f32 _, .f32 => true
  | .u64 _, .u64 => true
  | .bytes b, .bytes n => b.length == n
  | .hsbk _, .hsbk => true
  | _, _ => false

/-- The field set of a record is that of a layout: its non-reserved fields, in order, by name and kind (R36, R194; log 9). -/
def fieldsMatch : List Field → List (FieldName × Value) → Bool
  | [], vs => vs.isEmpty
  | f :: fs, vs =>
    if f.kind.isReserved then fieldsMatch fs vs
    else
      match vs with
      | [] => false
      | (n, v) :: rest => n == f.name && v.hasKind f.kind && fieldsMatch fs rest

/-- HSBK at offset `o`: hue, saturation, brightness, kelvin, two bytes each (R239). -/
def encodeHsbk (b : Bytes) (o : Nat) (c : Hsbk) : Bytes :=
  memWrite (memWrite (memWrite (memWrite b o 2 c.hue.toNat) (o + 2) 2 c.saturation.toNat) (o + 4) 2 c.brightness.toNat)
    (o + 6) 2 c.kelvin.toNat

/-- HSBK at offset `o` (R239). -/
def decodeHsbk (b : Bytes) (o : Nat) : Hsbk where
  hue := BitVec.ofNat 16 (memRead b o 2)
  saturation := BitVec.ofNat 16 (memRead b (o + 2) 2)
  brightness := BitVec.ofNat 16 (memRead b (o + 4) 2)
  kelvin := BitVec.ofNat 16 (memRead b (o + 6) 2)

/-- `EncField`: a value written at a payload offset by its kind (R192). -/
def encodeValue (b : Bytes) (o : Nat) : Value → Bytes
  | .u8 v => memWrite b o 1 v.toNat
  | .u16 v => memWrite b o 2 v.toNat
  | .i16 v => memWrite b o 2 v.toNat
  | .u32 v => memWrite b o 4 v.toNat
  | .f32 v => memWrite b o 4 v.toNat
  | .u64 v => memWrite b o 8 v.toNat
  | .bytes s => bytesWrite b o s
  | .hsbk c => encodeHsbk b o c

/-- `DecField`: the value of a kind at a payload offset; `none` for a reserved field, which is not read (R192, R194). -/
def decodeValue (b : Bytes) (o : Nat) : Kind → Option Value
  | .u8 => some (.u8 (BitVec.ofNat 8 (memRead b o 1)))
  | .u16 => some (.u16 (BitVec.ofNat 16 (memRead b o 2)))
  | .i16 => some (.i16 (BitVec.ofNat 16 (memRead b o 2)))
  | .u32 => some (.u32 (BitVec.ofNat 32 (memRead b o 4)))
  | .f32 => some (.f32 (BitVec.ofNat 32 (memRead b o 4)))
  | .u64 => some (.u64 (BitVec.ofNat 64 (memRead b o 8)))
  | .bytes n => some (.bytes (bytesRead b o n))
  | .hsbk => some (.hsbk (decodeHsbk b o))
  | .reserved _ => none

/-- The fields of a record written over `b` at the layout's offsets; reserved fields write nothing (R192, R241). -/
def encodeFields : List Field → List (FieldName × Value) → Bytes → Bytes
  | [], _, b => b
  | f :: fs, vs, b =>
    if f.kind.isReserved then encodeFields fs vs b
    else
      match vs with
      | [] => b
      | (_, v) :: rest => encodeFields fs rest (encodeValue b f.offset v)

/-- The fields of a layout read from `b` (R192, R242). -/
def decodeFields (layout : List Field) (b : Bytes) : List (FieldName × Value) :=
  layout.filterMap fun f => (decodeValue b f.offset f.kind).map fun v => (f.name, v)

/-- The registered length of a type (R240). -/
def lookupLength (r : Registry) (mt : BitVec 16) : Except Err Nat :=
  match r.find mt with
  | none => .error .unknownMessageType
  | some e => .ok e.length

/-- EncodePayload: the type, the field set, the bytes (R192, R241). -/
def encodePayload (r : Registry) (p : Payload) : Except Err Bytes :=
  match r.find p.mtype with
  | none => .error .unknownMessageType
  | some e =>
    if fieldsMatch e.layout p.fields then .ok (encodeFields e.layout p.fields (zeroBytes e.length))
    else .error .illegalOperation

/-- DecodePayload: the type, the length, the fields; bytes past the fixed length are not read (R193, R242). -/
def decodePayload (r : Registry) (mt : BitVec 16) (b : Bytes) : Except Err Payload :=
  match r.find mt with
  | none => .error .unknownMessageType
  | some e =>
    if b.length < e.length then .error .payloadLengthMismatch
    else .ok ⟨mt, decodeFields e.layout b⟩

/-- The encode contract of one message type: as `encodePayload`, for a record of that type. A record with another tag is not of
this type's layout: IllegalOperation (R281; DESIGN CHOICE, log 10). -/
def encodeVariant (r : Registry) (mt : BitVec 16) (p : Payload) : Except Err Bytes :=
  match r.find mt with
  | none => .error .unknownMessageType
  | some _ => if p.mtype = mt then encodePayload r p else .error .illegalOperation

/-- What the variant dispatcher answers for a type, under the contract the host names (R190, R240 to R242; log 1). -/
def variantResult (mt : BitVec 16) (s : State) : Except Err Outputs :=
  match s.contract with
  | .lookup => (lookupLength s.registry mt).map Outputs.okOlen
  | .encode => (encodeVariant s.registry mt s.pld).map Outputs.okObuf
  | .decode => (decodePayload s.registry mt s.ibuf).map Outputs.okOpld

/-- A message-type word: the code selects the payload layout, and the dispatcher runs on it (R107; log 1). -/
def runVariant (mt : BitVec 16) (s : State) : Host.Outcome State Fault Refusal := s.finish (variantResult mt s)

/-! ### The packet codec -/

/-- Assemble: type, field set, size, then header and payload contiguously, with the computed size and type (R260). -/
def assemblePacket (r : Registry) (h : Header) (p : Payload) : Except Err Bytes :=
  match r.find p.mtype with
  | none => .error .unknownMessageType
  | some e =>
    if !fieldsMatch e.layout p.fields then .error .illegalOperation
    else if Config.headerLen + e.length > Config.maxPacket then .error .payloadTooLarge
    else
      .ok (encodeHeader { h with size := BitVec.ofNat 16 (Config.headerLen + e.length), messageType := p.mtype }
        ++ encodeFields e.layout p.fields (zeroBytes e.length))

/-- The part of a parse after its header: type, truncation, declared size, payload (R261, R262). -/
def parseBody (r : Registry) (b : Bytes) (h : Header) : Except Err (Header × Payload) :=
  match r.find h.messageType with
  | none => .error .unknownMessageType
  | some e =>
    if b.length < Config.headerLen + e.length then .error .truncatedPacket
    else if h.size.toNat ≠ Config.headerLen + e.length then .error .payloadLengthMismatch
    else (decodePayload r h.messageType (bytesRead b Config.headerLen e.length)).map fun p => (h, p)

/-- Parse: the header first, whose errors propagate (R261, R262). -/
def parsePacket (r : Registry) (b : Bytes) : Except Err (Header × Payload) :=
  match decodeHeader b with
  | .error e => .error e
  | .ok h => parseBody r b h

end Sys2Proof.Machine
end

