-- ==== Sys2Proof/Machine/BitFields.lean ====
section
/-! DEFINITION. The sub-byte bit-fields of 40_primitive_codec.md section 4 (R147 to R150). -/

namespace Sys2Proof.Machine

/-- RD_BITS (R147, R149, R132). -/
def execRdBits (off : BitVec 16) (bitoff : BitVec 4) (bitw : BitVec 5) (s : State) : Host.Outcome State Fault Refusal :=
  s.finish ((readBits s.ibuf off.toNat bitoff.toNat bitw.toNat).map fun v => Outputs.okRval (zext64 v))

/-- WR_BITS (R147, R148, R150). -/
def execWrBits (off : BitVec 16) (bitoff : BitVec 4) (bitw : BitVec 5) (s : State) : Host.Outcome State Fault Refusal :=
  s.finish ((writeBits s.ibuf off.toNat bitoff.toNat bitw.toNat s.val).map Outputs.okObuf)

end Sys2Proof.Machine
end

