-- ==== Sys2Proof/Machine/DeviceMessages.lean ====
section
/-! DEFINITION. The message types of the device family (42_payload_registry.md R196 to R227): each
runs the variant dispatcher for its code (log 1). Its length and layout stand in the registry; the default entries are in
Machine/Registry.lean. -/

namespace Sys2Proof.Machine

/-- GET_SERVICE, code 2 (R196): L = 0, empty. -/
def execGetService (s : State) : Host.Outcome State Fault Refusal := runVariant 2 s

/-- STATE_SERVICE, code 3 (R197): L = 5, fields 0: service u8, 1: port u32. -/
def execStateService (s : State) : Host.Outcome State Fault Refusal := runVariant 3 s

/-- GET_HOST_INFO, code 12 (R198): L = 0, empty. -/
def execGetHostInfo (s : State) : Host.Outcome State Fault Refusal := runVariant 12 s

/-- STATE_HOST_INFO, code 13 (R199): L = 14, fields 0: signal f32, 4: tx u32, 8: rx u32, 12: reserved[2]. -/
def execStateHostInfo (s : State) : Host.Outcome State Fault Refusal := runVariant 13 s

/-- GET_HOST_FIRMWARE, code 14 (R200): L = 0, empty. -/
def execGetHostFirmware (s : State) : Host.Outcome State Fault Refusal := runVariant 14 s

/-- STATE_HOST_FIRMWARE, code 15 (R201): L = 20, fields 0: build u64, 8: reserved[8], 16: version u32. -/
def execStateHostFirmware (s : State) : Host.Outcome State Fault Refusal := runVariant 15 s

/-- GET_WIFI_INFO, code 16 (R202): L = 0, empty. -/
def execGetWifiInfo (s : State) : Host.Outcome State Fault Refusal := runVariant 16 s

/-- STATE_WIFI_INFO, code 17 (R203): L = 14, fields 0: signal f32, 4: tx u32, 8: rx u32, 12: reserved[2]. -/
def execStateWifiInfo (s : State) : Host.Outcome State Fault Refusal := runVariant 17 s

/-- GET_WIFI_FIRMWARE, code 18 (R204): L = 0, empty. -/
def execGetWifiFirmware (s : State) : Host.Outcome State Fault Refusal := runVariant 18 s

/-- STATE_WIFI_FIRMWARE, code 19 (R205): L = 20, fields 0: build u64, 8: reserved[8], 16: version u32. -/
def execStateWifiFirmware (s : State) : Host.Outcome State Fault Refusal := runVariant 19 s

/-- GET_POWER, code 20 (R206): L = 0, empty. -/
def execGetPower (s : State) : Host.Outcome State Fault Refusal := runVariant 20 s

/-- SET_POWER, code 21 (R207): L = 6, fields 0: level u16, 2: duration u32. -/
def execSetPower (s : State) : Host.Outcome State Fault Refusal := runVariant 21 s

/-- STATE_POWER, code 22 (R208): L = 2, fields 0: level u16. -/
def execStatePower (s : State) : Host.Outcome State Fault Refusal := runVariant 22 s

/-- GET_LABEL, code 23 (R209): L = 0, empty. -/
def execGetLabel (s : State) : Host.Outcome State Fault Refusal := runVariant 23 s

/-- SET_LABEL, code 24 (R210): L = 32, fields 0: label bytes[32]. -/
def execSetLabel (s : State) : Host.Outcome State Fault Refusal := runVariant 24 s

/-- STATE_LABEL, code 25 (R211): L = 32, fields 0: label bytes[32]. -/
def execStateLabel (s : State) : Host.Outcome State Fault Refusal := runVariant 25 s

/-- GET_VERSION, code 32 (R212): L = 0, empty. -/
def execGetVersion (s : State) : Host.Outcome State Fault Refusal := runVariant 32 s

/-- STATE_VERSION, code 33 (R213): L = 12, fields 0: vendor u32, 4: product u32, 8: version u32. -/
def execStateVersion (s : State) : Host.Outcome State Fault Refusal := runVariant 33 s

/-- GET_INFO, code 34 (R214): L = 0, empty. -/
def execGetInfo (s : State) : Host.Outcome State Fault Refusal := runVariant 34 s

/-- STATE_INFO, code 35 (R215): L = 24, fields 0: time u64, 8: uptime u64, 16: downtime u64. -/
def execStateInfo (s : State) : Host.Outcome State Fault Refusal := runVariant 35 s

/-- ACKNOWLEDGEMENT, code 45 (R216): L = 0, empty. -/
def execAcknowledgement (s : State) : Host.Outcome State Fault Refusal := runVariant 45 s

/-- GET_LOCATION, code 48 (R217): L = 0, empty. -/
def execGetLocation (s : State) : Host.Outcome State Fault Refusal := runVariant 48 s

/-- SET_LOCATION, code 49 (R218): L = 56, fields 0: location bytes[16], 16: label bytes[32], 48: updatedAt u64. -/
def execSetLocation (s : State) : Host.Outcome State Fault Refusal := runVariant 49 s

/-- STATE_LOCATION, code 50 (R219): L = 56, fields 0: location bytes[16], 16: label bytes[32], 48: updatedAt u64. -/
def execStateLocation (s : State) : Host.Outcome State Fault Refusal := runVariant 50 s

/-- GET_GROUP, code 51 (R220): L = 0, empty. -/
def execGetGroup (s : State) : Host.Outcome State Fault Refusal := runVariant 51 s

/-- SET_GROUP, code 52 (R221): L = 56, fields 0: group bytes[16], 16: label bytes[32], 48: updatedAt u64. -/
def execSetGroup (s : State) : Host.Outcome State Fault Refusal := runVariant 52 s

/-- STATE_GROUP, code 53 (R222): L = 56, fields 0: group bytes[16], 16: label bytes[32], 48: updatedAt u64. -/
def execStateGroup (s : State) : Host.Outcome State Fault Refusal := runVariant 53 s

/-- GET_UNKNOWN, code 54 (R223): L = 0, empty. -/
def execGetUnknown (s : State) : Host.Outcome State Fault Refusal := runVariant 54 s

/-- SET_UNKNOWN, code 55 (R224): L = 56, fields 0: data bytes[56]. -/
def execSetUnknown (s : State) : Host.Outcome State Fault Refusal := runVariant 55 s

/-- STATE_UNKNOWN, code 56 (R225): L = 56, fields 0: data bytes[56]. -/
def execStateUnknown (s : State) : Host.Outcome State Fault Refusal := runVariant 56 s

/-- ECHO_REQUEST, code 58 (R226): L = 64, fields 0: echoing bytes[64]. -/
def execEchoRequest (s : State) : Host.Outcome State Fault Refusal := runVariant 58 s

/-- ECHO_RESPONSE, code 59 (R227): L = 64, fields 0: echoing bytes[64]. -/
def execEchoResponse (s : State) : Host.Outcome State Fault Refusal := runVariant 59 s

end Sys2Proof.Machine
end

