-- ==== Sys2Proof/Machine/FixedReads.lean ====
section
/-! DEFINITION. The fixed-width reads of 40_primitive_codec.md section 2 (R133 to R139). -/

namespace Sys2Proof.Machine

/-- RD_U8: one byte, zero-extended (R133, R132). -/
def execRdU8 (off : BitVec 16) (s : State) : Host.Outcome State Fault Refusal :=
  s.finish ((readField s.ibuf off.toNat 1).map fun v => Outputs.okRval (zext64 v))

/-- RD_U16: two bytes, zero-extended (R134, R132). -/
def execRdU16 (off : BitVec 16) (s : State) : Host.Outcome State Fault Refusal :=
  s.finish ((readField s.ibuf off.toNat 2).map fun v => Outputs.okRval (zext64 v))

/-- RD_U32: four bytes, zero-extended (R135, R132). -/
def execRdU32 (off : BitVec 16) (s : State) : Host.Outcome State Fault Refusal :=
  s.finish ((readField s.ibuf off.toNat 4).map fun v => Outputs.okRval (zext64 v))

/-- RD_U64: eight bytes (R136, R132). -/
def execRdU64 (off : BitVec 16) (s : State) : Host.Outcome State Fault Refusal :=
  s.finish ((readField s.ibuf off.toNat 8).map fun v => Outputs.okRval (zext64 v))

/-- RD_I16: two bytes as a two's-complement number, sign-extended (R137, R132). -/
def execRdI16 (off : BitVec 16) (s : State) : Host.Outcome State Fault Refusal :=
  s.finish ((readField s.ibuf off.toNat 2).map fun v => Outputs.okRval (sext64 v))

/-- RD_F32: a binary32 pattern, zero-extended and not converted (R138, R132). -/
def execRdF32 (off : BitVec 16) (s : State) : Host.Outcome State Fault Refusal :=
  s.finish ((readField s.ibuf off.toNat 4).map fun v => Outputs.okRval (zext64 v))

/-- RD_BYTES: `N` bytes in order (R139). -/
def execRdBytes (off n : BitVec 16) (s : State) : Host.Outcome State Fault Refusal :=
  s.finish ((readBytes s.ibuf off.toNat n.toNat).map Outputs.okRdata)

end Sys2Proof.Machine
end

