-- ==== Sys2Proof/Machine/FixedWrites.lean ====
section
/-! DEFINITION. The fixed-width writes of 40_primitive_codec.md section 3 (R140 to R146). -/

namespace Sys2Proof.Machine

/-- WR_U8: the low byte of `VAL` (R140, R130, R131). -/
def execWrU8 (off : BitVec 16) (s : State) : Host.Outcome State Fault Refusal :=
  s.finish ((writeField s.ibuf off.toNat 1 (truncVal 8 s.val)).map Outputs.okObuf)

/-- WR_U16: the low 16 bits of `VAL` (R141, R130, R131). -/
def execWrU16 (off : BitVec 16) (s : State) : Host.Outcome State Fault Refusal :=
  s.finish ((writeField s.ibuf off.toNat 2 (truncVal 16 s.val)).map Outputs.okObuf)

/-- WR_U32: the low 32 bits of `VAL` (R142, R130, R131). -/
def execWrU32 (off : BitVec 16) (s : State) : Host.Outcome State Fault Refusal :=
  s.finish ((writeField s.ibuf off.toNat 4 (truncVal 32 s.val)).map Outputs.okObuf)

/-- WR_U64: all of `VAL` (R143, R130, R131). -/
def execWrU64 (off : BitVec 16) (s : State) : Host.Outcome State Fault Refusal :=
  s.finish ((writeField s.ibuf off.toNat 8 (truncVal 64 s.val)).map Outputs.okObuf)

/-- WR_I16: the low 16 bits of `VAL`, the bytes WR_U16 writes (R144, R130, R131). -/
def execWrI16 (off : BitVec 16) (s : State) : Host.Outcome State Fault Refusal :=
  s.finish ((writeField s.ibuf off.toNat 2 (truncVal 16 s.val)).map Outputs.okObuf)

/-- WR_F32: the binary32 pattern in the low 32 bits of `VAL`, unchanged (R145, R130, R131). -/
def execWrF32 (off : BitVec 16) (s : State) : Host.Outcome State Fault Refusal :=
  s.finish ((writeField s.ibuf off.toNat 4 (truncVal 32 s.val)).map Outputs.okObuf)

/-- WR_BYTES: the `N` bytes of `DATA`, whose length is checked first (R146, R130). -/
def execWrBytes (off n : BitVec 16) (s : State) : Host.Outcome State Fault Refusal :=
  s.finish ((writeBytes s.ibuf off.toNat n.toNat s.data).map Outputs.okObuf)

end Sys2Proof.Machine
end

