-- ==== Sys2Proof/Machine/HeaderOps.lean ====
section
/-! DEFINITION. The header operations of 41_header.md section 2 (R173, R174). -/

namespace Sys2Proof.Machine

/-- ENC_HDR: 36 bytes, no validation (R173). -/
def execEncHdr (s : State) : Host.Outcome State Fault Refusal :=
  s.finish (.ok (Outputs.okObuf (encodeHeader s.hdr)))

/-- DEC_HDR (R172, R174). -/
def execDecHdr (s : State) : Host.Outcome State Fault Refusal :=
  s.finish ((decodeHeader s.ibuf).map Outputs.okOhdr)

end Sys2Proof.Machine
end

