-- ==== Sys2Proof/Machine/LightMessages.lean ====
section
/-! DEFINITION. The message types of the light family (42_payload_registry.md R228 to R238): each
runs the variant dispatcher for its code (log 1). Its length and layout stand in the registry; the default entries are in
Machine/Registry.lean. -/

namespace Sys2Proof.Machine

/-- LIGHT_GET, code 101 (R228): L = 0, empty. -/
def execLightGet (s : State) : Host.Outcome State Fault Refusal := runVariant 101 s

/-- LIGHT_SET_COLOR, code 102 (R229): L = 13, fields 0: reserved[1], 1: color hsbk, 9: duration u32. -/
def execLightSetColor (s : State) : Host.Outcome State Fault Refusal := runVariant 102 s

/-- LIGHT_SET_WAVEFORM, code 103 (R230): L = 21, fields 0: reserved[1], 1: transient u8, 2: color hsbk, 10: period u32,
14: cycles f32, 18: skewRatio i16, 20: waveform u8. -/
def execLightSetWaveform (s : State) : Host.Outcome State Fault Refusal := runVariant 103 s

/-- LIGHT_STATE, code 107 (R231): L = 52, fields 0: color hsbk, 8: reserved[2], 10: power u16, 12: label bytes[32],
44: reserved[8]. -/
def execLightState (s : State) : Host.Outcome State Fault Refusal := runVariant 107 s

/-- LIGHT_GET_POWER, code 116 (R232): L = 0, empty. -/
def execLightGetPower (s : State) : Host.Outcome State Fault Refusal := runVariant 116 s

/-- LIGHT_SET_POWER, code 117 (R233): L = 6, fields 0: level u16, 2: duration u32. -/
def execLightSetPower (s : State) : Host.Outcome State Fault Refusal := runVariant 117 s

/-- LIGHT_STATE_POWER, code 118 (R234): L = 2, fields 0: level u16. -/
def execLightStatePower (s : State) : Host.Outcome State Fault Refusal := runVariant 118 s

/-- LIGHT_SET_WAVEFORM_OPTIONAL, code 119 (R235): L = 25, fields 0: reserved[1], 1: transient u8, 2: color hsbk,
10: period u32, 14: cycles f32, 18: skewRatio i16, 20: waveform u8, 21: setHue u8,
22: setSaturation u8, 23: setBrightness u8, 24: setKelvin u8. -/
def execLightSetWaveformOptional (s : State) : Host.Outcome State Fault Refusal := runVariant 119 s

/-- LIGHT_GET_INFRARED, code 120 (R236): L = 0, empty. -/
def execLightGetInfrared (s : State) : Host.Outcome State Fault Refusal := runVariant 120 s

/-- LIGHT_STATE_INFRARED, code 121 (R237): L = 2, fields 0: brightness u16. -/
def execLightStateInfrared (s : State) : Host.Outcome State Fault Refusal := runVariant 121 s

/-- LIGHT_SET_INFRARED, code 122 (R238): L = 2, fields 0: brightness u16. -/
def execLightSetInfrared (s : State) : Host.Outcome State Fault Refusal := runVariant 122 s

end Sys2Proof.Machine
end

