-- ==== Sys2Proof/Machine/PacketOps.lean ====
section
/-! DEFINITION. The packet operations of 43_packet.md (R260, R261). -/

namespace Sys2Proof.Machine

/-- ASSEMBLE (R260). -/
def execAssemble (s : State) : Host.Outcome State Fault Refusal :=
  s.finish ((assemblePacket s.registry s.hdr s.pld).map Outputs.okObuf)

/-- PARSE (R261, R262). -/
def execParse (s : State) : Host.Outcome State Fault Refusal :=
  s.finish ((parsePacket s.registry s.ibuf).map fun x => Outputs.okPacket x.1 x.2)

end Sys2Proof.Machine
end

