-- ==== Sys2Proof/Machine/PayloadOps.lean ====
section
/-! DEFINITION. The registry and payload operations of 42_payload_registry.md section 4 (R240 to R242). -/

namespace Sys2Proof.Machine

/-- LOOKUP (R240). -/
def execLookup (mtype : BitVec 16) (s : State) : Host.Outcome State Fault Refusal :=
  s.finish ((lookupLength s.registry mtype).map Outputs.okOlen)

/-- ENC_PLD (R241). -/
def execEncPld (s : State) : Host.Outcome State Fault Refusal :=
  s.finish ((encodePayload s.registry s.pld).map Outputs.okObuf)

/-- DEC_PLD (R242). -/
def execDecPld (mtype : BitVec 16) (s : State) : Host.Outcome State Fault Refusal :=
  s.finish ((decodePayload s.registry mtype s.ibuf).map Outputs.okOpld)

end Sys2Proof.Machine
end

