-- ==== Sys2Proof/Machine/Dispatch.lean ====
section
/-! DEFINITION. The dispatch of an instruction to its meaning, one arm per constructor of Instr. -/

namespace Sys2Proof.Machine

def exec (i : Instr) (s : State) : Host.Outcome State Fault Refusal :=
  match i with
  | .rdU8 off => Sys2Proof.Machine.execRdU8 off s
  | .rdU16 off => Sys2Proof.Machine.execRdU16 off s
  | .rdU32 off => Sys2Proof.Machine.execRdU32 off s
  | .rdU64 off => Sys2Proof.Machine.execRdU64 off s
  | .rdI16 off => Sys2Proof.Machine.execRdI16 off s
  | .rdF32 off => Sys2Proof.Machine.execRdF32 off s
  | .rdBytes off n => Sys2Proof.Machine.execRdBytes off n s
  | .rdBits off bitoff bitw => Sys2Proof.Machine.execRdBits off bitoff bitw s
  | .wrU8 off => Sys2Proof.Machine.execWrU8 off s
  | .wrU16 off => Sys2Proof.Machine.execWrU16 off s
  | .wrU32 off => Sys2Proof.Machine.execWrU32 off s
  | .wrU64 off => Sys2Proof.Machine.execWrU64 off s
  | .wrI16 off => Sys2Proof.Machine.execWrI16 off s
  | .wrF32 off => Sys2Proof.Machine.execWrF32 off s
  | .wrBytes off n => Sys2Proof.Machine.execWrBytes off n s
  | .wrBits off bitoff bitw => Sys2Proof.Machine.execWrBits off bitoff bitw s
  | .encHdr => Sys2Proof.Machine.execEncHdr s
  | .decHdr => Sys2Proof.Machine.execDecHdr s
  | .lookup mtype => Sys2Proof.Machine.execLookup mtype s
  | .encPld => Sys2Proof.Machine.execEncPld s
  | .decPld mtype => Sys2Proof.Machine.execDecPld mtype s
  | .assemble => Sys2Proof.Machine.execAssemble s
  | .parse => Sys2Proof.Machine.execParse s
  | .getService => Sys2Proof.Machine.execGetService s
  | .stateService => Sys2Proof.Machine.execStateService s
  | .getHostInfo => Sys2Proof.Machine.execGetHostInfo s
  | .stateHostInfo => Sys2Proof.Machine.execStateHostInfo s
  | .getHostFirmware => Sys2Proof.Machine.execGetHostFirmware s
  | .stateHostFirmware => Sys2Proof.Machine.execStateHostFirmware s
  | .getWifiInfo => Sys2Proof.Machine.execGetWifiInfo s
  | .stateWifiInfo => Sys2Proof.Machine.execStateWifiInfo s
  | .getWifiFirmware => Sys2Proof.Machine.execGetWifiFirmware s
  | .stateWifiFirmware => Sys2Proof.Machine.execStateWifiFirmware s
  | .getPower => Sys2Proof.Machine.execGetPower s
  | .setPower => Sys2Proof.Machine.execSetPower s
  | .statePower => Sys2Proof.Machine.execStatePower s
  | .getLabel => Sys2Proof.Machine.execGetLabel s
  | .setLabel => Sys2Proof.Machine.execSetLabel s
  | .stateLabel => Sys2Proof.Machine.execStateLabel s
  | .getVersion => Sys2Proof.Machine.execGetVersion s
  | .stateVersion => Sys2Proof.Machine.execStateVersion s
  | .getInfo => Sys2Proof.Machine.execGetInfo s
  | .stateInfo => Sys2Proof.Machine.execStateInfo s
  | .acknowledgement => Sys2Proof.Machine.execAcknowledgement s
  | .getLocation => Sys2Proof.Machine.execGetLocation s
  | .setLocation => Sys2Proof.Machine.execSetLocation s
  | .stateLocation => Sys2Proof.Machine.execStateLocation s
  | .getGroup => Sys2Proof.Machine.execGetGroup s
  | .setGroup => Sys2Proof.Machine.execSetGroup s
  | .stateGroup => Sys2Proof.Machine.execStateGroup s
  | .getUnknown => Sys2Proof.Machine.execGetUnknown s
  | .setUnknown => Sys2Proof.Machine.execSetUnknown s
  | .stateUnknown => Sys2Proof.Machine.execStateUnknown s
  | .echoRequest => Sys2Proof.Machine.execEchoRequest s
  | .echoResponse => Sys2Proof.Machine.execEchoResponse s
  | .lightGet => Sys2Proof.Machine.execLightGet s
  | .lightSetColor => Sys2Proof.Machine.execLightSetColor s
  | .lightSetWaveform => Sys2Proof.Machine.execLightSetWaveform s
  | .lightState => Sys2Proof.Machine.execLightState s
  | .lightGetPower => Sys2Proof.Machine.execLightGetPower s
  | .lightSetPower => Sys2Proof.Machine.execLightSetPower s
  | .lightStatePower => Sys2Proof.Machine.execLightStatePower s
  | .lightSetWaveformOptional => Sys2Proof.Machine.execLightSetWaveformOptional s
  | .lightGetInfrared => Sys2Proof.Machine.execLightGetInfrared s
  | .lightStateInfrared => Sys2Proof.Machine.execLightStateInfrared s
  | .lightSetInfrared => Sys2Proof.Machine.execLightSetInfrared s

end Sys2Proof.Machine
end

