-- ==== Sys2Proof/Machine/Step.lean ====
section
/-! DEFINITION. One step is one transaction on the ports as they stand (00_scope.md R3, 20_memory.md R69). The block fetches no
instruction (10_state.md R32): the word is the one the host presents. -/

namespace Sys2Proof.Machine

/-- One transaction: the selected operation, or the error of a word that selects none (R91, R93, R108, R284). -/
def step (s : State) : Host.Outcome State Fault Refusal :=
  match decode s.offBits s.fetchWord with
  | .ok i => exec i s
  | .error e => State.raise (errOfDecode e) s

/-- The host presents the word of a row of the opcode table (log 7). -/
def State.withFetchWord (s : State) (nbits w : Nat) : State := s.present (tableWord nbits w)

end Sys2Proof.Machine
end

