-- ==== Sys2Proof/Machine/Program.lean ====
section
/-! DEFINITION. The host's side of a program: lines, the buffer variable `B`, and the pseudo-instructions (30_encoding.md R120,
R121). This convention belongs to the host, not to the block (10_state.md R32), so none of it is in State (log 12). -/

namespace Sys2Proof.Machine

/-- One line of a program: an instruction and the ports it names (R120). R120 gives an absent command field the value 0 and is
silent on an absent port or record field: that it is 0, the empty sequence, or the record of zeros is a DESIGN CHOICE (log 23). -/
structure Line where
  instr : Instr
  val : BitVec 64 := 0
  data : Bytes := []
  hdr : Header := Header.zero
  pld : Payload := ⟨0, []⟩
deriving DecidableEq, Repr

/-- The host of one program: the block's ports and the host-side buffer variable `B` (R120). -/
structure HostState where
  block : State
  buffer : Bytes
deriving DecidableEq, Repr

/-- The host drives the ports for a line: `IBUF = B` and the line's own ports (R120). The line's operands are to fit the block's
`OFF_BITS` (`Instr.operandsFit`): one that does not has no word (R62). -/
def driveLine (h : HostState) (l : Line) : State :=
  { h.block.present (encode l.instr) with val := l.val, ibuf := h.buffer, data := l.data, hdr := l.hdr, pld := l.pld }

/-- `B` after a transaction: `OBUF` where it ended with `STATUS = OK` and drives `OBUF`, else as before (R120). -/
def nextBuffer (b : Bytes) (o : Outputs) : Bytes :=
  if o.status = some statusOk then o.obuf.getD b else b

/-- One line: the transaction, then `B`. -/
def runLine (h : HostState) (l : Line) : Host.Outcome HostState Fault Refusal :=
  match step (driveLine h l) with
  | .next s => .next ⟨s, nextBuffer h.buffer s.out⟩
  | .fault f => .fault f
  | .refused r => .refused r

/-- A program: its lines in order, up to the last or to the first whose `STATUS` is not OK (R120). -/
def runProgram : List Line → HostState → Host.Outcome HostState Fault Refusal
  | [], h => .next h
  | l :: ls, h =>
    match runLine h l with
    | .next h' => if h'.block.out.status = some statusOk then runProgram ls h' else .next h'
    | .fault f => .fault f
    | .refused r => .refused r

/-- The header fields that the pseudo-instructions name (R121). -/
inductive HeaderBits where
  | protocol
  | addressable
  | tagged
  | origin
  | resReq
  | ackReq
deriving DecidableEq, Repr

/-- The byte offset, bit offset and bit width of a named header field (R121). -/
def headerBitsPlace : HeaderBits → BitVec 16 × BitVec 4 × BitVec 5
  | .protocol => (2, 0, 12)
  | .addressable => (2, 12, 1)
  | .tagged => (2, 13, 1)
  | .origin => (2, 14, 2)
  | .resReq => (22, 0, 1)
  | .ackReq => (22, 1, 1)

/-- `WR_PROTOCOL`, `WR_ADDRESSABLE`, … (R121). -/
def pseudoWrite (f : HeaderBits) : Instr :=
  .wrBits (headerBitsPlace f).1 (headerBitsPlace f).2.1 (headerBitsPlace f).2.2

/-- `RD_PROTOCOL`, `RD_ADDRESSABLE`, … (R121). -/
def pseudoRead (f : HeaderBits) : Instr :=
  .rdBits (headerBitsPlace f).1 (headerBitsPlace f).2.1 (headerBitsPlace f).2.2

/-- `ZEROS n`: host-side, `B` becomes `n` zero bytes, with no transaction (R121). -/
def pseudoZeros (h : HostState) (n : Nat) : HostState := { h with buffer := zeroBytes n }

end Sys2Proof.Machine
end

