-- ==== Sys2Proof/Safety.lean ====
section
/-! DEFINITION. What counts as a safe state: the registry and `OFF_BITS` are permitted ones, the output ports follow the discipline
of 10_state.md R34 and 60_exceptions.md R280, R281, and what a decode returns is a complete, checked value (43_packet.md R266). -/

namespace Sys2Proof.Machine

/-- A valid header record (41_header.md R171). -/
def Header.valid (h : Header) : Bool :=
  h.origin == Config.originRequired && h.protocol == Config.protocol
    && Config.headerLen ≤ h.size.toNat && h.size.toNat ≤ Config.maxPacket

/-- A well-formed payload record: its tag is registered and its fields are those of the tag's layout (R36). -/
def Payload.wf (r : Registry) (p : Payload) : Bool :=
  match r.find p.mtype with
  | none => false
  | some e => fieldsMatch e.layout p.fields

/-- Which outputs a successful transaction drives: one of the groups of R34. -/
def Outputs.oneGroup (o : Outputs) : Bool :=
  match o.rval, o.rdata, o.obuf, o.olen, o.ohdr, o.opld with
  | some _, none, none, none, none, none => true
  | none, some _, none, none, none, none => true
  | none, none, some _, none, none, none => true
  | none, none, none, some _, none, none => true
  | none, none, none, none, some _, none => true
  | none, none, none, none, none, some _ => true
  | none, none, none, none, some _, some _ => true
  | _, _, _, _, _, _ => false

/-- The discipline of the output ports: before the first transaction no port carries a value (R40); after an error `STATUS` alone
does, with a code of R281; after a success the operation's own ports do (R34). -/
def Outputs.disciplined (o : Outputs) : Bool :=
  match o.status with
  | none => o == {}
  | some c => if c = statusOk then o.oneGroup else 1 ≤ c.toNat && c.toNat ≤ 9 && o == { status := some c }

/-- A decoded header is valid, a decoded record is well formed, and the two of a parsed packet agree in type and size (R171, R36,
R266). -/
def Outputs.sound (r : Registry) (o : Outputs) : Bool :=
  (match o.ohdr with | none => true | some h => h.valid)
    && (match o.opld with | none => true | some p => p.wf r)
    && (match o.ohdr, o.opld with
        | some h, some p =>
          h.messageType == p.mtype && (r.find p.mtype).map (fun e => Config.headerLen + e.length) == some h.size.toNat
        | _, _ => true)

/-- The invariant that every transaction keeps. -/
def State.inv (s : State) : Bool :=
  s.registry.valid && Config.offBitsLegal s.offBits && s.out.disciplined && s.out.sound s.registry

/-- The transaction ends, with a result or with an error, and neither stops the machine (R280, R317). -/
def State.ends (s : State) : Prop := ∃ o : Outputs, step s = .next { s with out := o }

end Sys2Proof.Machine
end

