-- ==== Sys2Proof/Certificates/Slice0/Obligations.lean ====
section
/-! DEFINITION. The statements for the provers. Every statement about an instruction gives its next state as an equation
`exec i s = .next { s with out := … }`: the whole frame (no port but the outputs changes, 20_memory.md R70, R71) and the completion
in one. The functions under `Sys2Proof.Statement` say in the spec's own terms what the operations compute: bytes by offset, bits by
position, images by concatenation, not the model's reads and writes. Statements that name a specific error rest on the spec's
choices I1 and I13 of 93_implementation_defined.md (log 18). A permitted registry is one that meets R191 as the model checks it
(log 17); the layouts of the default registry are the spec's own default (log 19). -/

namespace Sys2Proof.Statement

open Sys2Proof Sys2Proof.Machine

/-- The byte at offset `k` as a number (0 past the end, where no statement uses it). -/
def byteAt (b : Bytes) (k : Nat) : Nat := (b.getD k 0).toNat

/-- `sum_{k<n} b[o+k] * 2^(8k)`, the little-endian integer of 00_scope.md R13. -/
def leAt (b : Bytes) (o n : Nat) : Nat := ((List.range n).map fun k => byteAt b (o + k) * 2 ^ (8 * k)).sum

/-- Bit `j` of the little-endian bytes from offset `o` on: bit `j mod 8` of byte `o + j div 8` (R63, R147). -/
def wireBit (b : Bytes) (o j : Nat) : Bool := (b.getD (o + j / 8) 0).getLsbD (j % 8)

/-- The state after a transaction: only the output ports differ (R70). -/
abbrev ends (s : State) (o : Outputs) : Host.Outcome State Fault Refusal := .next { s with out := o }

/-- A scalar read of `w` bytes (R64, R132): in bounds, bit `j` of `RVAL` is `bit j` of the bytes at `OFF`; else OutOfBounds. -/
def ReadsScalar (op : BitVec 16 → Instr) (w : Nat) (bit : Bytes → Nat → Nat → Bool) : Prop :=
  ∀ (s : State) (off : BitVec 16),
    (off.toNat + w ≤ s.ibuf.length →
      ∃ v : BitVec 64, exec (op off) s = ends s (Outputs.okRval v) ∧
        ∀ j < 64, v.getLsbD j = bit s.ibuf off.toNat j) ∧
    (s.ibuf.length < off.toNat + w → exec (op off) s = ends s (Outputs.error .outOfBounds))

/-- The low `8w` bits from the wire, zeros above. -/
def zeroExtended (w : Nat) (b : Bytes) (o j : Nat) : Bool := decide (j < 8 * w) && wireBit b o j

/-- The low 16 bits from the wire, copies of bit 15 above. -/
def signExtended16 (b : Bytes) (o j : Nat) : Bool := wireBit b o (min j 15)

/-- A scalar write of `w` bytes (R64, R130, R131, R152): in bounds, byte `OFF+k` of `OBUF` is `VAL[8k+7:8k]` and every other
byte is that of `IBUF`; else OutOfBounds and no `OBUF`. -/
def WritesScalar (op : BitVec 16 → Instr) (w : Nat) : Prop :=
  ∀ (s : State) (off : BitVec 16),
    (off.toNat + w ≤ s.ibuf.length →
      ∃ ob : Bytes, exec (op off) s = ends s (Outputs.okObuf ob) ∧ ob.length = s.ibuf.length ∧
        ∀ a, Memory.read ob a =
          if off.toNat ≤ a ∧ a < off.toNat + w then some (s.val.extractLsb' (8 * (a - off.toNat)) 8)
          else Memory.read s.ibuf a) ∧
    (s.ibuf.length < off.toNat + w → exec (op off) s = ends s (Outputs.error .outOfBounds))

/-- The operands of a bit field are legal (R147). -/
def LegalField (bitoff : BitVec 4) (bitw : BitVec 5) : Prop :=
  1 ≤ bitw.toNat ∧ bitw.toNat ≤ 16 ∧ bitoff.toNat + bitw.toNat ≤ 16

/-- The container of a bit field is in bounds (R147). -/
def ContainerFits (b : Bytes) (off : BitVec 16) (bitoff : BitVec 4) (bitw : BitVec 5) : Prop :=
  off.toNat + (bitoff.toNat + bitw.toNat + 7) / 8 ≤ b.length

/-- Writing and reading back with the written buffer passed on as `IBUF` gives `VAL` (R151). -/
def WriteThenRead (wr rd : Instr) (s : State) : Prop :=
  ∃ ob : Bytes, exec wr s = ends s (Outputs.okObuf ob) ∧
    exec rd { s with ibuf := ob } = ends { s with ibuf := ob } (Outputs.okRval s.val)

/-- The 36 bytes of a header, field by field in wire order (30_encoding.md R100 to R103). -/
def headerImage (h : Header) : Bytes :=
  leBytes 2 h.size.toNat
    ++ [BitVec.ofNat 8 (h.protocol.toNat % 256),
        BitVec.ofNat 8 (h.protocol.toNat / 256 + 16 * h.addressable.toNat + 32 * h.tagged.toNat + 64 * h.origin.toNat)]
    ++ leBytes 4 h.source.toNat ++ h.target.toList ++ h.siteId.toList
    ++ [BitVec.ofNat 8 (h.resRequired.toNat + 2 * h.ackRequired.toNat), h.sequence]
    ++ leBytes 8 h.timestamp.toNat ++ leBytes 2 h.messageType.toNat ++ [0, 0]

/-- The header fields stand in the buffer at their wire positions (R100 to R102). -/
structure HeaderAt (h : Header) (b : Bytes) : Prop where
  size : h.size.toNat = leAt b 0 2
  protocol : h.protocol.toNat = byteAt b 2 + 256 * (byteAt b 3 % 16)
  addressable : h.addressable.toNat = byteAt b 3 / 16 % 2
  tagged : h.tagged.toNat = byteAt b 3 / 32 % 2
  origin : h.origin.toNat = byteAt b 3 / 64
  source : h.source.toNat = leAt b 4 4
  target : ∀ k : Fin 8, (h.target[k]).toNat = byteAt b (8 + k)
  siteId : ∀ k : Fin 6, (h.siteId[k]).toNat = byteAt b (16 + k)
  resRequired : h.resRequired.toNat = byteAt b 22 % 2
  ackRequired : h.ackRequired.toNat = byteAt b 22 / 2 % 2
  sequence : h.sequence.toNat = byteAt b 23
  timestamp : h.timestamp.toNat = leAt b 24 8
  messageType : h.messageType.toNat = leAt b 32 2

/-- Checks 1 and 2 of R172 pass: 36 bytes, `origin = 0`. -/
def OriginPasses (b : Bytes) : Prop := 36 ≤ b.length ∧ byteAt b 3 / 64 = 0

/-- Checks 1 to 3 of R172 pass: and `protocol = 1024`. -/
def ProtocolPasses (b : Bytes) : Prop := OriginPasses b ∧ byteAt b 2 + 256 * (byteAt b 3 % 16) = 1024

/-- All checks of R172 pass: and `36 ≤ size ≤ 128`. -/
def HeaderPasses (b : Bytes) : Prop := ProtocolPasses b ∧ 36 ≤ leAt b 0 2 ∧ leAt b 0 2 ≤ 128

/-- The header errors, in the order of R172, for an operation that starts with DecodeHeader. -/
def HeaderErrors (i : Instr) (s : State) : Prop :=
  (s.ibuf.length < 36 → exec i s = ends s (Outputs.error .malformedHeader)) ∧
  (36 ≤ s.ibuf.length → byteAt s.ibuf 3 / 64 ≠ 0 → exec i s = ends s (Outputs.error .malformedHeader)) ∧
  (OriginPasses s.ibuf → byteAt s.ibuf 2 + 256 * (byteAt s.ibuf 3 % 16) ≠ 1024 →
    exec i s = ends s (Outputs.error .unsupportedProtocol)) ∧
  (ProtocolPasses s.ibuf → leAt s.ibuf 0 2 < 36 ∨ 128 < leAt s.ibuf 0 2 →
    exec i s = ends s (Outputs.error .invalidSize))

/-- The bytes of a value (R192, R239). -/
def valueImage : Value → Bytes
  | .u8 v => leBytes 1 v.toNat
  | .u16 v => leBytes 2 v.toNat
  | .i16 v => leBytes 2 v.toNat
  | .u32 v => leBytes 4 v.toNat
  | .f32 v => leBytes 4 v.toNat
  | .u64 v => leBytes 8 v.toNat
  | .bytes b => b
  | .hsbk c => leBytes 2 c.hue.toNat ++ leBytes 2 c.saturation.toNat ++ leBytes 2 c.brightness.toNat ++ leBytes 2 c.kelvin.toNat

/-- The bytes of a record: its values end to end, each reserved field as zero bytes (R105, R192, R194). -/
def layoutImage : List Field → List (FieldName × Value) → Bytes
  | [], _ => []
  | f :: fs, vs =>
    if f.kind.isReserved then List.replicate f.kind.size 0 ++ layoutImage fs vs
    else
      match vs with
      | [] => []
      | (_, v) :: rest => valueImage v ++ layoutImage fs rest

/-- The fields of a record are exactly those of the layout: the names and kinds of its non-reserved fields, listed in the layout's
order, which is how the model writes a record (R36; log 9). -/
def RecordOf (layout : List Field) (fields : List (FieldName × Value)) : Prop :=
  List.Forall₂ (fun f x => x.1 = f.name ∧ x.2.hasKind f.kind = true)
    (layout.filter fun f => !f.kind.isReserved) fields

/-- The field set of a record is not that of the layout, in whatever order its fields are listed (R241, R260). A record that lists
the layout's fields in another order is left out: what happens to it is the model's choice (log 9). -/
def OtherFieldSet (layout : List Field) (fields : List (FieldName × Value)) : Prop :=
  ∀ fs : List (FieldName × Value), fs.Perm fields → ¬ RecordOf layout fs

/-- The registry is a map: one entry per type (R190). -/
def IsMap (r : Registry) : Prop := (r.map Entry.mtype).Nodup

/-- A record and its image under the default registry, for the three registry operations (R195, R240 to R242): encoding gives
the image, decoding the image, with any bytes after it, gives the record, and the looked-up length is the image's. -/
def CodesAs (mt : BitVec 16) (fields : List (FieldName × Value)) (image : Bytes) : Prop :=
  ∀ s : State, s.registry = defaultRegistry →
    (s.pld = ⟨mt, fields⟩ → exec .encPld s = ends s (Outputs.okObuf image)) ∧
    (∀ tail, s.ibuf = image ++ tail → exec (.decPld mt) s = ends s (Outputs.okOpld ⟨mt, fields⟩)) ∧
    exec (.lookup mt) s = ends s (Outputs.okOlen image.length)

/-- The operation codes that use `OFF` (R94). -/
def usesOff (op : Nat) : Bool := op ≤ 0x0F
/-- The operation codes that use `BITOFF` and `BITW` (R94). -/
def usesBits (op : Nat) : Bool := op == 0x07 || op == 0x0F
/-- The operation codes that use `AUX` (R94). -/
def usesAux (op : Nat) : Bool := op == 0x06 || op == 0x0E || op == 0x12 || op == 0x14
/-- The operation codes that read `IBUF` (R94). -/
def readsIbuf (op : Nat) : Bool := op ≤ 0x0F || op == 0x11 || op == 0x14 || op == 0x16
/-- The operation codes that read `VAL` (R94). -/
def readsVal (op : Nat) : Bool := (0x08 ≤ op && op ≤ 0x0D) || op == 0x0F
/-- The operation codes that read `DATA` (R94). -/
def readsData (op : Nat) : Bool := op == 0x0E
/-- The operation codes that read `HDR` (R94). -/
def readsHdr (op : Nat) : Bool := op == 0x10 || op == 0x15
/-- The operation codes that read `PLD` (R94). -/
def readsPld (op : Nat) : Bool := op == 0x13 || op == 0x15

/-- Two command words select the same operation with equal used fields (R94): they agree on the whole places that R90 gives these
fields, so a block with a narrower `OFF_BITS` reads equal fields too. -/
def SameUsedFields (w w' : BitVec 64) : Prop :=
  cmdOp w = cmdOp w' ∧
  (usesOff (cmdOp w).toNat = true → cmdOff Config.offBits w = cmdOff Config.offBits w') ∧
  (usesBits (cmdOp w).toNat = true → cmdBitoff w = cmdBitoff w' ∧ cmdBitw w = cmdBitw w') ∧
  (usesAux (cmdOp w).toNat = true → cmdAux Config.offBits w = cmdAux Config.offBits w')

/-- The reserved fields of a command word are 0 (R91). -/
def ReservedZero (w : BitVec 64) : Prop := cmdRsv0 w = 0 ∧ cmdRsv1 w = 0

/-- Two states agree on the ports that an operation code reads (R94). -/
def SameReadPorts (op : Nat) (s t : State) : Prop :=
  (readsIbuf op = true → s.ibuf = t.ibuf) ∧ (readsVal op = true → s.val = t.val) ∧
  (readsData op = true → s.data = t.data) ∧ (readsHdr op = true → s.hdr = t.hdr) ∧
  (readsPld op = true → s.pld = t.pld)

/-- Which of `RVAL`, `RDATA`, `OBUF`, `OLEN`, `OHDR`, `OPLD` carry a value. -/
def drivenPorts (o : Outputs) : List Bool :=
  [o.rval.isSome, o.rdata.isSome, o.obuf.isSome, o.olen.isSome, o.ohdr.isSome, o.opld.isSome]

/-- The ports that each operation code drives when it succeeds (R34). -/
def portsOf (op : Nat) : List Bool :=
  if op ≤ 0x05 || op == 0x07 then [true, false, false, false, false, false]
  else if op == 0x06 then [false, true, false, false, false, false]
  else if op ≤ 0x10 || op == 0x13 || op == 0x15 then [false, false, true, false, false, false]
  else if op == 0x12 then [false, false, false, true, false, false]
  else if op == 0x11 then [false, false, false, false, true, false]
  else if op == 0x14 then [false, false, false, false, false, true]
  else [false, false, false, false, true, true]

/-- The value of a named header field (R121). -/
def headerBitsValue (h : Header) : HeaderBits → Nat
  | .protocol => h.protocol.toNat
  | .addressable => h.addressable.toNat
  | .tagged => h.tagged.toNat
  | .origin => h.origin.toNat
  | .resReq => h.resRequired.toNat
  | .ackReq => h.ackRequired.toNat

/-- The bits that two bit fields name do not meet. -/
def FieldsDisjoint (o₁ bo₁ bw₁ o₂ bo₂ bw₂ : Nat) : Prop :=
  8 * o₁ + bo₁ + bw₁ ≤ 8 * o₂ + bo₂ ∨ 8 * o₂ + bo₂ + bw₂ ≤ 8 * o₁ + bo₁

end Sys2Proof.Statement

open Sys2Proof Sys2Proof.Machine Sys2Proof.Statement

/-! ### Fetching and decoding -/

/-- When the word the host presents decodes to an instruction, the step is that instruction's meaning, and nothing is added
(10_state.md R32; log 7 for how a word is presented). The words of the opcode table are those of the default `OFF_BITS` (log 2). -/
def Obligations.StepRunsTheDecodedInstruction : Prop :=
  (∀ (s : State) (i : Instr), decode s.offBits s.fetchWord = .ok i → step s = exec i s) ∧
  (∀ (s : State) (w : FetchWord) (i : Instr), decode s.offBits w = .ok i → step (s.present w) = exec i (s.present w)) ∧
  (∀ (s : State) (nbits w : Nat) (i : Instr), s.offBits = Config.offBits → decodeTableWord nbits w = some i →
    step (s.withFetchWord nbits w) = exec i (s.withFetchWord nbits w))

/-- The worked encodings of R96, decoded and encoded. -/
def Obligations.WorkedCommandWordsDecodeAndEncode : Prop :=
  ∀ x ∈ ([(.rdU16 32, 0x0000002000000001#64), (.wrBits 2 12 1, 0x0000000200001C0F#64),
      (.wrBits 2 0 12, 0x000000020000C00F#64), (.rdBytes 8 8, 0x0008000800000006#64),
      (.lookup 21, 0x0015000000000012#64), (.parse, 0x0000000000000016#64)] : List (Instr × BitVec 64)),
    decode Config.offBits (.command x.2) = .ok x.1 ∧ encode x.1 = .command x.2

/-- Decoding the word of an instruction gives the instruction back, for every instruction and every operand value (R90, R92, R95,
R107). The zero in an unused field is R120's (log 21); message-type words are the model's (log 1). -/
def Obligations.DecodeOfEncodeIsTheInstruction : Prop :=
  (∀ (n : Nat) (i : Instr), i.operandsFit n = true → decode n (encode i) = .ok i) ∧
  (∀ i : Instr, decode Config.offBits (encode i) = .ok i)

/-- The parameter `OFF_BITS` (R9, R62): every operand that is decoded fits fields of that width; for each permitted width `OFF`
and `AUX` are the lowest `OFF_BITS` bits of their places in the word; and a word that selects an operation at the default width
selects one at every width, with the operands cut to it, and the same one where they fit. Which widths are permitted, and where a
field narrower than 16 bits lies, are the model's choice (log 4). -/
def Obligations.OffsetAndAuxiliaryFieldsHaveOffBitsBits : Prop :=
  (∀ (n : Nat) (w : BitVec 64) (i : Instr), decode n (.command w) = .ok i → i.operandsFit n = true) ∧
  (∀ n : Nat, Config.offBitsLegal n = true → ∀ w : BitVec 64,
    cmdOff n w = (w.extractLsb' 32 n).setWidth 16 ∧ cmdAux n w = (w.extractLsb' 48 n).setWidth 16) ∧
  (∀ (n : Nat) (w : BitVec 64) (i : Instr), decode Config.offBits (.command w) = .ok i →
    ∃ j : Instr, decode n (.command w) = .ok j ∧ j.off.toNat = i.off.toNat % 2 ^ n ∧ j.aux.toNat = i.aux.toNat % 2 ^ n ∧
      (i.operandsFit n = true → j = i))

/-- A non-zero reserved field raises IllegalOperation and nothing else, and a field that the operation does not use is ignored
(R91). -/
def Obligations.ReservedFieldsRaiseAndUnusedFieldsAreIgnored : Prop :=
  (∀ s : State, s.format = .command → cmdRsv0 s.cmd ≠ 0 ∨ cmdRsv1 s.cmd ≠ 0 →
    step s = ends s (Outputs.error .illegalOperation)) ∧
  (∀ (n : Nat) (w w' : BitVec 64), ReservedZero w → ReservedZero w' → SameUsedFields w w' →
    decode n (.command w) = decode n (.command w'))

/-- The operation codes 0x17 to 0x1F raise IllegalOperation (R93), and with zero reserved fields no other code is refused. -/
def Obligations.UnassignedOperationCodesRaise : Prop :=
  (∀ s : State, s.format = .command → ReservedZero s.cmd → 0x17 ≤ (cmdOp s.cmd).toNat →
    step s = ends s (Outputs.error .illegalOperation)) ∧
  (∀ (n : Nat) (w : BitVec 64), ReservedZero w → (cmdOp w).toNat ≤ 0x16 → ∃ i, decode n (.command w) = .ok i)

/-- A message-type word selects a row exactly when its code is in the catalog; another code raises UnknownMessageType. That a
message-type word is presented alone is the model's choice (log 1). -/
def Obligations.MessageTypeWordsSelectTheCatalog : Prop :=
  (∀ (n : Nat) (w : BitVec 16), w ∈ catalogCodes ↔ ∃ i, decode n (.messageType w) = .ok i) ∧
  (∀ s : State, s.format = .messageType → s.msgType ∉ catalogCodes →
    step s = ends s (Outputs.error .unknownMessageType))

/-! ### The primitive codec -/

/-- RD_U8, RD_U16, RD_U32, RD_U64, RD_F32 (R133 to R136, R138): little-endian, zero-extended, any alignment, OutOfBounds past the
end. -/
def Obligations.UnsignedReadsAreLittleEndian : Prop :=
  ReadsScalar .rdU8 1 (zeroExtended 1) ∧ ReadsScalar .rdU16 2 (zeroExtended 2) ∧
  ReadsScalar .rdU32 4 (zeroExtended 4) ∧ ReadsScalar .rdU64 8 (zeroExtended 8) ∧
  ReadsScalar .rdF32 4 (zeroExtended 4)

/-- RD_I16 sign-extends the two's-complement pattern (R137). -/
def Obligations.SignedReadSignExtends : Prop :=
  ReadsScalar .rdI16 2 signExtended16

/-- RD_BYTES copies `N` bytes in order (R139), also past the offset 65535 of R62 (log 22). -/
def Obligations.ByteArrayReadCopiesInOrder : Prop :=
  ∀ (s : State) (off n : BitVec 16),
    (off.toNat + n.toNat ≤ s.ibuf.length →
      ∃ d : Bytes, exec (.rdBytes off n) s = ends s (Outputs.okRdata d) ∧ d.length = n.toNat ∧
        ∀ k < n.toNat, d[k]? = Memory.read s.ibuf (off.toNat + k)) ∧
    (s.ibuf.length < off.toNat + n.toNat → exec (.rdBytes off n) s = ends s (Outputs.error .outOfBounds))

/-- WR_U8, WR_U16, WR_U32, WR_U64, WR_I16, WR_F32 (R140 to R145): the low bytes of `VAL`, lowest first, every other byte kept,
OutOfBounds with no `OBUF` past the end. -/
def Obligations.ScalarWritesReplaceOnlyTheirBytes : Prop :=
  WritesScalar .wrU8 1 ∧ WritesScalar .wrU16 2 ∧ WritesScalar .wrU32 4 ∧ WritesScalar .wrU64 8 ∧
  WritesScalar .wrI16 2 ∧ WritesScalar .wrF32 4

/-- WR_BYTES (R146): `DATA` of another length raises IllegalOperation before any bounds check; in bounds, `DATA` replaces the
bytes at `OFF` and every other byte is kept. -/
def Obligations.ByteArrayWriteReplacesOnlyItsBytes : Prop :=
  ∀ (s : State) (off n : BitVec 16),
    (s.data.length ≠ n.toNat → exec (.wrBytes off n) s = ends s (Outputs.error .illegalOperation)) ∧
    (s.data.length = n.toNat → s.ibuf.length < off.toNat + n.toNat →
      exec (.wrBytes off n) s = ends s (Outputs.error .outOfBounds)) ∧
    (s.data.length = n.toNat → off.toNat + n.toNat ≤ s.ibuf.length →
      ∃ ob : Bytes, exec (.wrBytes off n) s = ends s (Outputs.okObuf ob) ∧ ob.length = s.ibuf.length ∧
        ∀ a, Memory.read ob a =
          if off.toNat ≤ a ∧ a < off.toNat + n.toNat then s.data[a - off.toNat]? else Memory.read s.ibuf a)

/-- RD_BITS (R149, R147): illegal operands first, then the container's bounds, then bit `i` of `RVAL` is bit `BITOFF+i` of the
container and every bit above the field is 0. -/
def Obligations.BitFieldReadExtractsTheField : Prop :=
  ∀ (s : State) (off : BitVec 16) (bitoff : BitVec 4) (bitw : BitVec 5),
    (¬ LegalField bitoff bitw → exec (.rdBits off bitoff bitw) s = ends s (Outputs.error .illegalOperation)) ∧
    (LegalField bitoff bitw → ¬ ContainerFits s.ibuf off bitoff bitw →
      exec (.rdBits off bitoff bitw) s = ends s (Outputs.error .outOfBounds)) ∧
    (LegalField bitoff bitw → ContainerFits s.ibuf off bitoff bitw →
      ∃ v : BitVec 64, exec (.rdBits off bitoff bitw) s = ends s (Outputs.okRval v) ∧
        ∀ j < 64, v.getLsbD j = (decide (j < bitw.toNat) && wireBit s.ibuf off.toNat (bitoff.toNat + j)))

/-- WR_BITS (R150, R147, R148): illegal operands first, then the container's bounds, then the bits of the field are the low bits
of `VAL` and every other bit of the buffer is kept. -/
def Obligations.BitFieldWriteReplacesOnlyTheField : Prop :=
  ∀ (s : State) (off : BitVec 16) (bitoff : BitVec 4) (bitw : BitVec 5),
    (¬ LegalField bitoff bitw → exec (.wrBits off bitoff bitw) s = ends s (Outputs.error .illegalOperation)) ∧
    (LegalField bitoff bitw → ¬ ContainerFits s.ibuf off bitoff bitw →
      exec (.wrBits off bitoff bitw) s = ends s (Outputs.error .outOfBounds)) ∧
    (LegalField bitoff bitw → ContainerFits s.ibuf off bitoff bitw →
      ∃ ob : Bytes, exec (.wrBits off bitoff bitw) s = ends s (Outputs.okObuf ob) ∧ ob.length = s.ibuf.length ∧
        ∀ p < 8 * s.ibuf.length, wireBit ob 0 p =
          if 8 * off.toNat + bitoff.toNat ≤ p ∧ p < 8 * off.toNat + bitoff.toNat + bitw.toNat then
            s.val.getLsbD (p - (8 * off.toNat + bitoff.toNat))
          else wireBit s.ibuf 0 p)

/-- Two bit-field writes to fields that do not meet give one composed buffer, whatever their order: each field holds its value and
every other bit is kept (R148). -/
def Obligations.BitFieldWritesComposeInAnyOrder : Prop :=
  ∀ (s : State) (o₁ o₂ : BitVec 16) (bo₁ bo₂ : BitVec 4) (bw₁ bw₂ : BitVec 5) (v₁ v₂ : BitVec 64),
    LegalField bo₁ bw₁ → LegalField bo₂ bw₂ →
    ContainerFits s.ibuf o₁ bo₁ bw₁ → ContainerFits s.ibuf o₂ bo₂ bw₂ →
    FieldsDisjoint o₁.toNat bo₁.toNat bw₁.toNat o₂.toNat bo₂.toNat bw₂.toNat →
    ∃ a b c : Bytes,
      exec (.wrBits o₁ bo₁ bw₁) { s with val := v₁ } = ends { s with val := v₁ } (Outputs.okObuf a) ∧
      exec (.wrBits o₂ bo₂ bw₂) { s with val := v₂, ibuf := a } = ends { s with val := v₂, ibuf := a } (Outputs.okObuf c) ∧
      exec (.wrBits o₂ bo₂ bw₂) { s with val := v₂ } = ends { s with val := v₂ } (Outputs.okObuf b) ∧
      exec (.wrBits o₁ bo₁ bw₁) { s with val := v₁, ibuf := b } = ends { s with val := v₁, ibuf := b } (Outputs.okObuf c) ∧
      c.length = s.ibuf.length ∧
      ∀ p < 8 * s.ibuf.length, wireBit c 0 p =
        if 8 * o₁.toNat + bo₁.toNat ≤ p ∧ p < 8 * o₁.toNat + bo₁.toNat + bw₁.toNat then
          v₁.getLsbD (p - (8 * o₁.toNat + bo₁.toNat))
        else if 8 * o₂.toNat + bo₂.toNat ≤ p ∧ p < 8 * o₂.toNat + bo₂.toNat + bw₂.toNat then
          v₂.getLsbD (p - (8 * o₂.toNat + bo₂.toNat))
        else wireBit s.ibuf 0 p

/-- A value written in bounds and read back from the written buffer at the same width is the value (R151). -/
def Obligations.WriteThenReadReturnsTheValue : Prop :=
  ∀ (s : State) (off : BitVec 16),
    (off.toNat + 1 ≤ s.ibuf.length → s.val.toNat < 2 ^ 8 → WriteThenRead (.wrU8 off) (.rdU8 off) s) ∧
    (off.toNat + 2 ≤ s.ibuf.length → s.val.toNat < 2 ^ 16 → WriteThenRead (.wrU16 off) (.rdU16 off) s) ∧
    (off.toNat + 4 ≤ s.ibuf.length → s.val.toNat < 2 ^ 32 → WriteThenRead (.wrU32 off) (.rdU32 off) s) ∧
    (off.toNat + 8 ≤ s.ibuf.length → WriteThenRead (.wrU64 off) (.rdU64 off) s) ∧
    (off.toNat + 2 ≤ s.ibuf.length → -32768 ≤ s.val.toInt → s.val.toInt ≤ 32767 →
      WriteThenRead (.wrI16 off) (.rdI16 off) s) ∧
    (off.toNat + 4 ≤ s.ibuf.length → s.val.toNat < 2 ^ 32 → WriteThenRead (.wrF32 off) (.rdF32 off) s) ∧
    (∀ (bitoff : BitVec 4) (bitw : BitVec 5), LegalField bitoff bitw → ContainerFits s.ibuf off bitoff bitw →
      s.val.toNat < 2 ^ bitw.toNat → WriteThenRead (.wrBits off bitoff bitw) (.rdBits off bitoff bitw) s)

/-- After WR_U32, narrower reads see the little-endian slices (R66). -/
def Obligations.NarrowReadsSeeSlicesOfAWideWrite : Prop :=
  ∀ (s : State) (off : BitVec 16), off.toNat + 4 ≤ s.ibuf.length →
    ∃ ob : Bytes, exec (.wrU32 off) s = ends s (Outputs.okObuf ob) ∧
      exec (.rdU16 off) { s with ibuf := ob }
        = ends { s with ibuf := ob } (Outputs.okRval ((s.val.extractLsb' 0 16).setWidth 64)) ∧
      (∀ o : BitVec 16, o.toNat = off.toNat + 2 → exec (.rdU16 o) { s with ibuf := ob }
        = ends { s with ibuf := ob } (Outputs.okRval ((s.val.extractLsb' 16 16).setWidth 64))) ∧
      (∀ (k : Nat) (o : BitVec 16), k < 4 → o.toNat = off.toNat + k → exec (.rdU8 o) { s with ibuf := ob }
        = ends { s with ibuf := ob } (Outputs.okRval ((s.val.extractLsb' (8 * k) 8).setWidth 64)))

/-! ### The header -/

/-- ENC_HDR always succeeds and writes the fields in wire order, reserved bits and bytes 0, with no validation (R173). -/
def Obligations.EncodeHeaderWritesTheWireFormat : Prop :=
  ∀ s : State, exec .encHdr s = ends s (Outputs.okObuf (headerImage s.hdr)) ∧ (headerImage s.hdr).length = 36

/-- DEC_HDR: the checks in the order of R172, then every field from its place (R171, R172, R174). -/
def Obligations.DecodeHeaderChecksThenReadsTheFields : Prop :=
  ∀ s : State, HeaderErrors .decHdr s ∧
    (HeaderPasses s.ibuf → ∃ h : Header, exec .decHdr s = ends s (Outputs.okOhdr h) ∧ HeaderAt h s.ibuf)

/-- A valid header decodes from its encoding, and reserved bits, reserved bytes and bytes past 36 do not matter (R175). -/
def Obligations.HeaderRoundTripIgnoresReservedBits : Prop :=
  (∀ s : State, s.hdr.valid = true → ∃ ob : Bytes, exec .encHdr s = ends s (Outputs.okObuf ob) ∧
    exec .decHdr { s with ibuf := ob } = ends { s with ibuf := ob } (Outputs.okOhdr s.hdr)) ∧
  (∀ (s : State) (b : Bytes), 36 ≤ s.ibuf.length → 36 ≤ b.length →
    (∀ k < 34, k ≠ 22 → byteAt b k = byteAt s.ibuf k) → byteAt b 22 % 4 = byteAt s.ibuf 22 % 4 →
    ∃ o : Outputs, exec .decHdr s = ends s o ∧ exec .decHdr { s with ibuf := b } = ends { s with ibuf := b } o)

/-- The header-field pseudo-instructions read the fields of an encoded header (R121 with R101, R102). -/
def Obligations.HeaderPseudoReadsSeeTheEncodedFields : Prop :=
  ∀ (s : State) (f : HeaderBits), ∃ ob : Bytes, exec .encHdr s = ends s (Outputs.okObuf ob) ∧
    exec (pseudoRead f) { s with ibuf := ob }
      = ends { s with ibuf := ob } (Outputs.okRval (BitVec.ofNat 64 (headerBitsValue s.hdr f)))

/-! ### The registry and the payloads -/

/-- The default registry meets every constraint of R191, as the model reads its items 3 and 7 (log 17). -/
def Obligations.DefaultRegistryMeetsTheConstraints : Prop :=
  State.reset.registry.valid = true

/-- LOOKUP gives the registered length, and UnknownMessageType for any other type, under any registry that is a map (R240). -/
def Obligations.LookupGivesTheRegisteredLength : Prop :=
  ∀ (s : State) (mt : BitVec 16), IsMap s.registry →
    (∀ e ∈ s.registry, e.mtype = mt → exec (.lookup mt) s = ends s (Outputs.okOlen e.length)) ∧
    ((∀ e ∈ s.registry, e.mtype ≠ mt) → exec (.lookup mt) s = ends s (Outputs.error .unknownMessageType))

/-- Under a permitted registry every type outside the 43 codes is unregistered for lookup, payload decode and parse, and the header
decoder accepts every message type (R108). -/
def Obligations.UnregisteredTypesAreRefusedButNotByTheHeader : Prop :=
  (catalogCodes.Nodup ∧ catalogCodes.length = 43) ∧
  (∀ (s : State) (mt : BitVec 16), s.registry.valid = true → mt ∉ catalogCodes →
    exec (.lookup mt) s = ends s (Outputs.error .unknownMessageType) ∧
    exec (.decPld mt) s = ends s (Outputs.error .unknownMessageType)) ∧
  (∀ (s : State) (mt : BitVec 16), HeaderPasses s.ibuf → leAt s.ibuf 32 2 = mt.toNat →
    (∃ h : Header, exec .decHdr s = ends s (Outputs.okOhdr h) ∧ h.messageType = mt) ∧
    (s.registry.valid = true → mt ∉ catalogCodes → exec .parse s = ends s (Outputs.error .unknownMessageType)))

/-- ENC_PLD under any permitted registry: an unregistered tag, then a record whose field set is not its tag's layout, then the
values end to end with reserved bytes 0, of exactly the registered length (R241, R244). -/
def Obligations.EncodePayloadWritesTheLayout : Prop :=
  ∀ s : State, s.registry.valid = true →
    ((∀ e ∈ s.registry, e.mtype ≠ s.pld.mtype) → exec .encPld s = ends s (Outputs.error .unknownMessageType)) ∧
    (∀ e ∈ s.registry, e.mtype = s.pld.mtype → OtherFieldSet e.layout s.pld.fields →
      exec .encPld s = ends s (Outputs.error .illegalOperation)) ∧
    (∀ e ∈ s.registry, e.mtype = s.pld.mtype → RecordOf e.layout s.pld.fields →
      exec .encPld s = ends s (Outputs.okObuf (layoutImage e.layout s.pld.fields)) ∧
      (layoutImage e.layout s.pld.fields).length = e.length)

/-- DEC_PLD under any permitted registry: an unregistered type, then a short input, then a well-formed record whose values are
the bytes at the fields' offsets; reserved bytes and bytes past the length do not matter (R242). -/
def Obligations.DecodePayloadReadsTheLayout : Prop :=
  ∀ (s : State) (mt : BitVec 16), s.registry.valid = true →
    ((∀ e ∈ s.registry, e.mtype ≠ mt) → exec (.decPld mt) s = ends s (Outputs.error .unknownMessageType)) ∧
    (∀ e ∈ s.registry, e.mtype = mt → s.ibuf.length < e.length →
      exec (.decPld mt) s = ends s (Outputs.error .payloadLengthMismatch)) ∧
    (∀ e ∈ s.registry, e.mtype = mt → e.length ≤ s.ibuf.length →
      ∃ p : Payload, exec (.decPld mt) s = ends s (Outputs.okOpld p) ∧ p.mtype = mt ∧ RecordOf e.layout p.fields ∧
        ∀ f ∈ e.layout, f.kind.isReserved = false → ∀ k < f.kind.size,
          (layoutImage e.layout p.fields)[f.offset + k]? = Memory.read s.ibuf (f.offset + k))

/-- Payload round trip under any permitted registry, in both directions (R243). -/
def Obligations.PayloadRoundTripUnderAnyRegistry : Prop :=
  (∀ s : State, s.registry.valid = true → s.pld.wf s.registry = true →
    ∃ ob : Bytes, exec .encPld s = ends s (Outputs.okObuf ob) ∧
      exec (.decPld s.pld.mtype) { s with ibuf := ob } = ends { s with ibuf := ob } (Outputs.okOpld s.pld)) ∧
  (∀ (s : State) (e : Entry), s.registry.valid = true → e ∈ s.registry → e.length ≤ s.ibuf.length →
    (∀ f ∈ e.layout, f.kind.isReserved = true → ∀ k < f.kind.size, Memory.read s.ibuf (f.offset + k) = some 0) →
    ∃ p : Payload, exec (.decPld e.mtype) s = ends s (Outputs.okOpld p) ∧
      exec .encPld { s with pld := p } = ends { s with pld := p } (Outputs.okObuf (s.ibuf.take e.length)))

/-- An HSBK is hue, saturation, brightness, kelvin, two little-endian bytes each, no value checked, wherever it stands (R239). -/
def Obligations.HsbkIsFourLittleEndianWords : Prop :=
  ∀ (b : Bytes) (o : Nat) (c : Hsbk), o + 8 ≤ b.length →
    (encodeHsbk b o c).length = b.length ∧
    (∀ a, Memory.read (encodeHsbk b o c) a =
      if o ≤ a ∧ a < o + 8 then (valueImage (.hsbk c))[a - o]? else Memory.read b a) ∧
    decodeHsbk (encodeHsbk b o c) o = c ∧
    ((decodeHsbk b o).hue.toNat = leAt b o 2 ∧ (decodeHsbk b o).saturation.toNat = leAt b (o + 2) 2 ∧
      (decodeHsbk b o).brightness.toNat = leAt b (o + 4) 2 ∧ (decodeHsbk b o).kelvin.toNat = leAt b (o + 6) 2)

/-- The empty device requests 2 to 23 (R196, R198, R200, R202, R204, R206, R209). -/
def Obligations.EmptyDeviceRequestsCarryNoBytes : Prop :=
  CodesAs 2 [] [] ∧ CodesAs 12 [] [] ∧ CodesAs 14 [] [] ∧ CodesAs 16 [] [] ∧ CodesAs 18 [] [] ∧ CodesAs 20 [] [] ∧
  CodesAs 23 [] []

/-- The empty device types 32 to 54 and the empty light requests (R212, R214, R216, R217, R220, R223, R228, R232, R236). -/
def Obligations.EmptyLateTypesCarryNoBytes : Prop :=
  CodesAs 32 [] [] ∧ CodesAs 34 [] [] ∧ CodesAs 45 [] [] ∧ CodesAs 48 [] [] ∧ CodesAs 51 [] [] ∧ CodesAs 54 [] [] ∧
  CodesAs 101 [] [] ∧ CodesAs 116 [] [] ∧ CodesAs 120 [] []

/-- The layouts of the service, host, wifi and power types (R197, R199, R201, R203, R205, R207, R208), every value of every field. -/
def Obligations.ServiceHostWifiPowerLayouts : Prop :=
  (∀ (service : BitVec 8) (port : BitVec 32),
    CodesAs 3 [(.service, .u8 service), (.port, .u32 port)] ([service] ++ leBytes 4 port.toNat)) ∧
  (∀ mt ∈ ([13, 17] : List (BitVec 16)), ∀ signal tx rx : BitVec 32,
    CodesAs mt [(.signal, .f32 signal), (.tx, .u32 tx), (.rx, .u32 rx)]
      (leBytes 4 signal.toNat ++ leBytes 4 tx.toNat ++ leBytes 4 rx.toNat ++ [0, 0])) ∧
  (∀ mt ∈ ([15, 19] : List (BitVec 16)), ∀ (build : BitVec 64) (version : BitVec 32),
    CodesAs mt [(.build, .u64 build), (.version, .u32 version)]
      (leBytes 8 build.toNat ++ List.replicate 8 0 ++ leBytes 4 version.toNat)) ∧
  (∀ (level : BitVec 16) (duration : BitVec 32),
    CodesAs 21 [(.level, .u16 level), (.duration, .u32 duration)] (leBytes 2 level.toNat ++ leBytes 4 duration.toNat)) ∧
  (∀ level : BitVec 16, CodesAs 22 [(.level, .u16 level)] (leBytes 2 level.toNat))

/-- The layouts of the label, version, info, location and group types (R210, R211, R213, R215, R218, R219, R221, R222). -/
def Obligations.LabelVersionInfoLocationGroupLayouts : Prop :=
  (∀ mt ∈ ([24, 25] : List (BitVec 16)), ∀ label : Bytes, label.length = 32 →
    CodesAs mt [(.label, .bytes label)] label) ∧
  (∀ vendor product version : BitVec 32,
    CodesAs 33 [(.vendor, .u32 vendor), (.product, .u32 product), (.version, .u32 version)]
      (leBytes 4 vendor.toNat ++ leBytes 4 product.toNat ++ leBytes 4 version.toNat)) ∧
  (∀ time uptime downtime : BitVec 64,
    CodesAs 35 [(.time, .u64 time), (.uptime, .u64 uptime), (.downtime, .u64 downtime)]
      (leBytes 8 time.toNat ++ leBytes 8 uptime.toNat ++ leBytes 8 downtime.toNat)) ∧
  (∀ x ∈ ([(49, .location), (50, .location), (52, .group), (53, .group)] : List (BitVec 16 × FieldName)),
    ∀ (idBytes label : Bytes) (updatedAt : BitVec 64), idBytes.length = 16 → label.length = 32 →
    CodesAs x.1 [(x.2, .bytes idBytes), (.label, .bytes label), (.updatedAt, .u64 updatedAt)]
      (idBytes ++ label ++ leBytes 8 updatedAt.toNat))

/-- The layouts of the "unknown" and echo types, one raw byte field each (R224 to R227). -/
def Obligations.UnknownAndEchoLayouts : Prop :=
  (∀ mt ∈ ([55, 56] : List (BitVec 16)), ∀ data : Bytes, data.length = 56 → CodesAs mt [(.data, .bytes data)] data) ∧
  (∀ mt ∈ ([58, 59] : List (BitVec 16)), ∀ echoing : Bytes, echoing.length = 64 →
    CodesAs mt [(.echoing, .bytes echoing)] echoing)

/-- The layouts of the light types that carry fields (R229, R230, R231, R233, R234, R235, R237, R238). -/
def Obligations.LightLayouts : Prop :=
  (∀ (color : Hsbk) (duration : BitVec 32),
    CodesAs 102 [(.color, .hsbk color), (.duration, .u32 duration)]
      ([0] ++ valueImage (.hsbk color) ++ leBytes 4 duration.toNat)) ∧
  (∀ (transient : BitVec 8) (color : Hsbk) (period cycles : BitVec 32) (skewRatio : BitVec 16) (waveform : BitVec 8),
    CodesAs 103 [(.transient, .u8 transient), (.color, .hsbk color), (.period, .u32 period), (.cycles, .f32 cycles),
        (.skewRatio, .i16 skewRatio), (.waveform, .u8 waveform)]
      ([0, transient] ++ valueImage (.hsbk color) ++ leBytes 4 period.toNat ++ leBytes 4 cycles.toNat
        ++ leBytes 2 skewRatio.toNat ++ [waveform])) ∧
  (∀ (color : Hsbk) (power : BitVec 16) (label : Bytes), label.length = 32 →
    CodesAs 107 [(.color, .hsbk color), (.power, .u16 power), (.label, .bytes label)]
      (valueImage (.hsbk color) ++ [0, 0] ++ leBytes 2 power.toNat ++ label ++ List.replicate 8 0)) ∧
  (∀ (level : BitVec 16) (duration : BitVec 32),
    CodesAs 117 [(.level, .u16 level), (.duration, .u32 duration)]
      (leBytes 2 level.toNat ++ leBytes 4 duration.toNat)) ∧
  (∀ level : BitVec 16, CodesAs 118 [(.level, .u16 level)] (leBytes 2 level.toNat)) ∧
  (∀ (transient : BitVec 8) (color : Hsbk) (period cycles : BitVec 32) (skewRatio : BitVec 16)
      (waveform setHue setSaturation setBrightness setKelvin : BitVec 8),
    CodesAs 119 [(.transient, .u8 transient), (.color, .hsbk color), (.period, .u32 period), (.cycles, .f32 cycles),
        (.skewRatio, .i16 skewRatio), (.waveform, .u8 waveform), (.setHue, .u8 setHue),
        (.setSaturation, .u8 setSaturation), (.setBrightness, .u8 setBrightness), (.setKelvin, .u8 setKelvin)]
      ([0, transient] ++ valueImage (.hsbk color) ++ leBytes 4 period.toNat ++ leBytes 4 cycles.toNat
        ++ leBytes 2 skewRatio.toNat ++ [waveform, setHue, setSaturation, setBrightness, setKelvin])) ∧
  (∀ mt ∈ ([121, 122] : List (BitVec 16)), ∀ brightness : BitVec 16,
    CodesAs mt [(.brightness, .u16 brightness)] (leBytes 2 brightness.toNat))

/-! ### The message-type rows as instructions (the model's choice, log 1) -/

/-- Every device row of the table under the lookup contract answers its registered length. That a row runs alone, and its
contract, are the model's choice (log 1). -/
def Obligations.DeviceRowsAnswerTheirLength : Prop :=
  ∀ x ∈ ([(.getService, 0), (.stateService, 5), (.getHostInfo, 0), (.stateHostInfo, 14), (.getHostFirmware, 0),
      (.stateHostFirmware, 20), (.getWifiInfo, 0), (.stateWifiInfo, 14), (.getWifiFirmware, 0), (.stateWifiFirmware, 20),
      (.getPower, 0), (.setPower, 6), (.statePower, 2), (.getLabel, 0), (.setLabel, 32), (.stateLabel, 32),
      (.getVersion, 0), (.stateVersion, 12), (.getInfo, 0), (.stateInfo, 24), (.acknowledgement, 0), (.getLocation, 0),
      (.setLocation, 56), (.stateLocation, 56), (.getGroup, 0), (.setGroup, 56), (.stateGroup, 56), (.getUnknown, 0),
      (.setUnknown, 56), (.stateUnknown, 56), (.echoRequest, 64), (.echoResponse, 64)] : List (Instr × Nat)),
    ∀ s : State, s.registry = defaultRegistry → s.contract = .lookup → exec x.1 s = ends s (Outputs.okOlen x.2)

/-- Every light row of the table under the lookup contract answers its registered length (log 1). -/
def Obligations.LightRowsAnswerTheirLength : Prop :=
  ∀ x ∈ ([(.lightGet, 0), (.lightSetColor, 13), (.lightSetWaveform, 21), (.lightState, 52), (.lightGetPower, 0),
      (.lightSetPower, 6), (.lightStatePower, 2), (.lightSetWaveformOptional, 25), (.lightGetInfrared, 0),
      (.lightStateInfrared, 2), (.lightSetInfrared, 2)] : List (Instr × Nat)),
    ∀ s : State, s.registry = defaultRegistry → s.contract = .lookup → exec x.1 s = ends s (Outputs.okOlen x.2)

/-- Each of the 43 message-type rows, under any permitted registry: the lookup contract gives the length, the encode contract the
image of a record of this type (IllegalOperation for another tag or another record, log 9), the decode contract the record that DEC_PLD
of its code gives, or PayloadLengthMismatch (log 1, log 10). -/
def Obligations.MessageRowsRunTheirContract : Prop :=
  ∀ (i : Instr) (mt : BitVec 16), messageCode i = some mt → ∀ (s : State) (e : Entry),
    s.registry.valid = true → e ∈ s.registry → e.mtype = mt →
    (s.contract = .lookup → exec i s = ends s (Outputs.okOlen e.length)) ∧
    (s.contract = .encode → s.pld.mtype = mt → RecordOf e.layout s.pld.fields →
      exec i s = ends s (Outputs.okObuf (layoutImage e.layout s.pld.fields))) ∧
    (s.contract = .encode → s.pld.mtype ≠ mt ∨ ¬ RecordOf e.layout s.pld.fields →
      exec i s = ends s (Outputs.error .illegalOperation)) ∧
    (s.contract = .decode → s.ibuf.length < e.length → exec i s = ends s (Outputs.error .payloadLengthMismatch)) ∧
    (s.contract = .decode → e.length ≤ s.ibuf.length →
      ∃ p : Payload, exec i s = ends s (Outputs.okOpld p) ∧ exec (.decPld mt) s = ends s (Outputs.okOpld p))

/-- Whatever the ports hold, a row under a contract does what the registry command of that contract does on its code, when the
record to encode is of that type: the rows add no behaviour of their own (log 1). -/
def Obligations.MessageRowsAgreeWithTheCommands : Prop :=
  ∀ (i : Instr) (mt : BitVec 16), messageCode i = some mt → ∀ s : State, ∃ o : Outputs,
    exec i s = ends s o ∧
    (s.contract = .lookup → exec (.lookup mt) s = ends s o) ∧
    (s.contract = .decode → exec (.decPld mt) s = ends s o) ∧
    (s.contract = .encode → s.pld.mtype = mt → exec .encPld s = ends s o)

/-! ### The packet -/

/-- ASSEMBLE under any registry that is a map: an unregistered tag, a field set that is not the layout's, a total over 128, in that
order; else the header with the computed size and type, unvalidated, followed by the payload that ENC_PLD gives (R260). Under a
permitted registry the total never exceeds 128. -/
def Obligations.AssembleComputesSizeAndType : Prop :=
  (∀ s : State, IsMap s.registry →
    ((∀ e ∈ s.registry, e.mtype ≠ s.pld.mtype) → exec .assemble s = ends s (Outputs.error .unknownMessageType)) ∧
    (∀ e ∈ s.registry, e.mtype = s.pld.mtype → OtherFieldSet e.layout s.pld.fields →
      exec .assemble s = ends s (Outputs.error .illegalOperation)) ∧
    (∀ e ∈ s.registry, e.mtype = s.pld.mtype → RecordOf e.layout s.pld.fields → 128 < 36 + e.length →
      exec .assemble s = ends s (Outputs.error .payloadTooLarge)) ∧
    (∀ e ∈ s.registry, e.mtype = s.pld.mtype → RecordOf e.layout s.pld.fields → 36 + e.length ≤ 128 →
      ∃ pb : Bytes, exec .encPld s = ends s (Outputs.okObuf pb) ∧ pb.length = e.length ∧
        exec .assemble s = ends s (Outputs.okObuf (headerImage
          { s.hdr with size := BitVec.ofNat 16 (36 + e.length), messageType := s.pld.mtype } ++ pb)))) ∧
  (∀ s : State, s.registry.valid = true → exec .assemble s ≠ ends s (Outputs.error .payloadTooLarge))

/-- PARSE under any registry that is a map: the seven errors in the order of R262, and otherwise the header that DEC_HDR gives
with the record that DEC_PLD gives for the `L` bytes after it (R261, R262). -/
def Obligations.ParseReportsTheFirstErrorOrThePacket : Prop :=
  ∀ s : State, IsMap s.registry →
    HeaderErrors .parse s ∧
    (HeaderPasses s.ibuf → (∀ e ∈ s.registry, e.mtype.toNat ≠ leAt s.ibuf 32 2) →
      exec .parse s = ends s (Outputs.error .unknownMessageType)) ∧
    (HeaderPasses s.ibuf → ∀ e ∈ s.registry, e.mtype.toNat = leAt s.ibuf 32 2 →
      (s.ibuf.length < 36 + e.length → exec .parse s = ends s (Outputs.error .truncatedPacket)) ∧
      (36 + e.length ≤ s.ibuf.length → leAt s.ibuf 0 2 ≠ 36 + e.length →
        exec .parse s = ends s (Outputs.error .payloadLengthMismatch)) ∧
      (36 + e.length ≤ s.ibuf.length → leAt s.ibuf 0 2 = 36 + e.length →
        ∃ (h : Header) (p : Payload), exec .parse s = ends s (Outputs.okPacket h p) ∧
          exec .decHdr s = ends s (Outputs.okOhdr h) ∧ h.messageType = e.mtype ∧
          exec (.decPld e.mtype) { s with ibuf := (s.ibuf.drop 36).take e.length }
            = ends { s with ibuf := (s.ibuf.drop 36).take e.length } (Outputs.okOpld p)))

/-- PARSE reads only the first `36 + L` bytes: any bytes from there on give the same result (R263). -/
def Obligations.ParseIgnoresBytesPastThePacket : Prop :=
  ∀ (s : State) (e : Entry) (tail : Bytes), s.registry.valid = true → e ∈ s.registry →
    leAt s.ibuf 32 2 = e.mtype.toNat → 36 + e.length ≤ s.ibuf.length →
    ∃ o : Outputs, exec .parse s = ends s o ∧
      exec .parse { s with ibuf := s.ibuf.take (36 + e.length) ++ tail }
        = ends { s with ibuf := s.ibuf.take (36 + e.length) ++ tail } o

/-- A good header with an unregistered type gives UnknownMessageType whatever stands after the 36 bytes (R264). -/
def Obligations.UnknownTypeConsumesNoPayloadBytes : Prop :=
  ∀ (s : State) (tail : Bytes), HeaderPasses s.ibuf → (∀ e ∈ s.registry, e.mtype.toNat ≠ leAt s.ibuf 32 2) →
    exec .parse { s with ibuf := s.ibuf.take 36 ++ tail }
      = ends { s with ibuf := s.ibuf.take 36 ++ tail } (Outputs.error .unknownMessageType)

/-- The packet round trip under any permitted registry (R265): a header with `origin = 0` and `protocol = 1024` and a well-formed
record assemble to a packet that parses to the same record and to the header with the computed size and type, which is the header
itself when it already has them; any other origin or protocol assembles but does not parse. -/
def Obligations.AssembledPacketsParseBack : Prop :=
  ∀ (s : State) (e : Entry), s.registry.valid = true → e ∈ s.registry → e.mtype = s.pld.mtype →
    s.pld.wf s.registry = true →
    ∃ ob : Bytes, exec .assemble s = ends s (Outputs.okObuf ob) ∧
      (s.hdr.origin = 0 → s.hdr.protocol = 1024 →
        exec .parse { s with ibuf := ob } = ends { s with ibuf := ob }
          (Outputs.okPacket { s.hdr with size := BitVec.ofNat 16 (36 + e.length), messageType := e.mtype } s.pld)) ∧
      (s.hdr.origin = 0 → s.hdr.protocol = 1024 → s.hdr.size.toNat = 36 + e.length → s.hdr.messageType = e.mtype →
        exec .parse { s with ibuf := ob } = ends { s with ibuf := ob } (Outputs.okPacket s.hdr s.pld)) ∧
      (s.hdr.origin ≠ 0 →
        exec .parse { s with ibuf := ob } = ends { s with ibuf := ob } (Outputs.error .malformedHeader)) ∧
      (s.hdr.origin = 0 → s.hdr.protocol ≠ 1024 →
        exec .parse { s with ibuf := ob } = ends { s with ibuf := ob } (Outputs.error .unsupportedProtocol))

/-- Every packet PARSE accepts satisfies the invariants of R266, under any registry. -/
def Obligations.ParsedPacketsSatisfyTheInvariants : Prop :=
  ∀ s t : State, exec .parse s = .next t → t.out.status = some statusOk →
    ∃ (h : Header) (p : Payload) (e : Entry), t = { s with out := Outputs.okPacket h p } ∧
      e ∈ s.registry ∧ e.mtype = h.messageType ∧ p.mtype = h.messageType ∧
      h.size.toNat = 36 + e.length ∧ 36 ≤ h.size.toNat ∧ h.size.toNat ≤ 128 ∧ h.size.toNat ≤ s.ibuf.length ∧
      h.origin = 0 ∧ h.protocol = 1024

/-! ### The whole machine -/

/-- The status codes of R281, and an error's outputs: `STATUS` alone. -/
def Obligations.StatusCodesOfTheErrors : Prop :=
  statusOk = 0 ∧
  ([.outOfBounds, .malformedHeader, .unsupportedProtocol, .invalidSize, .unknownMessageType, .payloadLengthMismatch,
      .truncatedPacket, .payloadTooLarge, .illegalOperation] : List Err).map Err.code = [1, 2, 3, 4, 5, 6, 7, 8, 9] ∧
  ∀ e : Err, Outputs.error e = { status := some e.code } ∧ drivenPorts (Outputs.error e) = List.replicate 6 false

/-- Every transaction ends, in every state, with a result or an error and never with a stop, and its outputs keep the discipline
of R34 and R280: one success group, or an error code alone. Nothing but the outputs changes. -/
def Obligations.EveryTransactionEndsWithDisciplinedOutputs : Prop :=
  ∀ s : State, ∃ o : Outputs, step s = ends s o ∧ o.disciplined = true ∧ o.status ≠ none

/-- Each operation drives exactly its own ports when it succeeds, and `STATUS` alone when it fails (R34). -/
def Obligations.OperationsDriveExactlyTheirPorts : Prop :=
  ∀ s : State, s.format = .command → ReservedZero s.cmd → (cmdOp s.cmd).toNat ≤ 0x16 →
    ∃ o : Outputs, step s = ends s o ∧
      ((o.status = some statusOk ∧ drivenPorts o = portsOf (cmdOp s.cmd).toNat) ∨ ∃ e : Err, o = Outputs.error e)

/-- No result depends on an earlier transaction: whatever the output ports held, a success or an error, the step's outputs are
the same (R30, R288). -/
def Obligations.OutputsDoNotDependOnEarlierTransactions : Prop :=
  ∀ (s : State) (earlier : Outputs), ∃ o : Outputs,
    step s = ends s o ∧ step { s with out := earlier } = ends s o

/-- Every operation changes only its own outputs, and repeating it on the same inputs gives the same outputs (R70). -/
def Obligations.TransactionsAreIdempotentAndChangeOnlyOutputs : Prop :=
  ∀ s : State, ∃ t : State, step s = .next t ∧ t = { s with out := t.out } ∧ step t = .next t

/-- An operation reads only its fields of the command word and its ports: two states that agree on these, and on the two parameters
of the block, give the same outputs (R94, R9). -/
def Obligations.OperationsReadOnlyTheirFieldsAndPorts : Prop :=
  ∀ s t : State, s.format = .command → t.format = .command → ReservedZero s.cmd → ReservedZero t.cmd →
    s.offBits = t.offBits → SameUsedFields s.cmd t.cmd → s.registry = t.registry → SameReadPorts (cmdOp s.cmd).toNat s t →
    ∃ o : Outputs, step s = ends s o ∧ step t = ends t o

/-- Reset leaves the constants of R8 and the defaults of the two parameters (R9) in place and no value on any output port (R40). The
values of the input ports at reset are the model's choice (log 5) and are not stated. -/
def Obligations.ResetLeavesTheConstantsAndNoOutput : Prop :=
  State.reset.registry = defaultRegistry ∧ State.reset.offBits = 16 ∧ State.reset.out = {} ∧
  drivenPorts State.reset.out = List.replicate 6 false ∧ State.reset.out.status = none ∧
  Config.headerLen = 36 ∧ Config.maxPacket = 128 ∧ Config.maxPayload = 92 ∧ Config.protocol = 1024 ∧
  Config.originRequired = 0 ∧ Config.hsbkLen = 8 ∧ Config.udpPort = 56700

/-- The invariant of `EveryStepKeepsTheInvariant` holds at reset (log 17 and log 4 for its first two parts). -/
def Obligations.ResetMeetsTheInvariant : Prop :=
  State.reset.inv = true

/-- Every step keeps the invariant: a permitted registry (log 17), a permitted `OFF_BITS` (log 4), the discipline of the output ports,
and decoded values that are complete, checked and consistent (R34, R36, R38, R171, R266, R281). -/
def Obligations.EveryStepKeepsTheInvariant : Prop :=
  ∀ s t : State, s.inv = true → step s = .next t → t.inv = true
end

