-- ==== Sys2Proof/Laws/Memory.lean ====
section
/-! SUPPORT. Laws of the byte buffers: little-endian values (20_memory.md R63), reads, writes and their frame (40_primitive_codec.md
R130, R152), and the canonical form. -/

namespace Sys2Proof.Machine

@[simp] theorem leBytes_length (n v : Nat) : (leBytes n v).length = n := by
  induction n generalizing v with
  | zero => rfl
  | succ n ih => simp [leBytes, ih]

/-- Byte `k` of a little-endian value is its bits `8k+7:8k` (R13). -/
theorem leBytes_getElem? (n v k : Nat) :
    (leBytes n v)[k]? = if k < n then some (BitVec.ofNat 8 (v / 256 ^ k)) else none := by
  induction n generalizing v k with
  | zero => simp [leBytes]
  | succ n ih =>
    cases k with
    | zero => simp [leBytes]
    | succ k => simp [leBytes, ih, Nat.div_div_eq_div_mul, Nat.pow_succ']

theorem leValue_lt (bs : Bytes) : leValue bs < 256 ^ bs.length := by
  induction bs with
  | nil => simp [leValue]
  | cons b bs ih =>
    have hb := b.isLt
    simp only [leValue, List.length_cons, Nat.pow_succ'] at *
    omega

/-- Writing a value as bytes and reading the bytes back keeps its low `8n` bits. -/
theorem leValue_leBytes (n v : Nat) : leValue (leBytes n v) = v % 256 ^ n := by
  induction n generalizing v with
  | zero => simp [leBytes, leValue, Nat.mod_one]
  | succ n ih =>
    simp only [leBytes, leValue, ih, BitVec.toNat_ofNat]
    have h : v % 256 ^ (n + 1) = v % 256 + 256 * (v / 256 % 256 ^ n) := by rw [Nat.pow_succ' (n := n), Nat.mod_mul]
    omega

/-- Reading bytes as a value and writing the value as bytes gives the bytes back. -/
theorem leBytes_leValue (bs : Bytes) : leBytes bs.length (leValue bs) = bs := by
  induction bs with
  | nil => rfl
  | cons b bs ih =>
    have hb := b.isLt
    have h1 : (b.toNat + 256 * leValue bs) / 256 = leValue bs := by omega
    have h2 : BitVec.ofNat 8 (b.toNat + 256 * leValue bs) = b := by
      apply BitVec.eq_of_toNat_eq
      simp only [BitVec.toNat_ofNat]
      omega
    simp only [List.length_cons, leValue, leBytes, h1, h2, ih]

theorem bytesRead_length (b : Bytes) (o n : Nat) : (bytesRead b o n).length = min n (b.length - o) := by
  simp [bytesRead]

theorem bytesRead_getElem? (b : Bytes) (o n k : Nat) :
    (bytesRead b o n)[k]? = if k < n then b[o + k]? else none := by
  simp [bytesRead, List.getElem?_take]

/-- A write neither lengthens nor shortens the buffer (R130). -/
@[simp] theorem bytesWrite_length (b : Bytes) (o : Nat) (vs : Bytes) : (bytesWrite b o vs).length = b.length := by
  induction b generalizing o vs with
  | nil => rfl
  | cons x xs ih => cases o <;> cases vs <;> simp [bytesWrite, ih]

@[simp] theorem memWrite_length (b : Bytes) (o n v : Nat) : (memWrite b o n v).length = b.length := by
  simp [memWrite]

@[simp] theorem zeroBytes_length (n : Nat) : (zeroBytes n).length = n := by simp [zeroBytes]

/-- The byte at `i` after a write: the written byte inside `o .. o+|vs|-1`, the old byte outside (R13, R152). -/
theorem bytesWrite_getElem? (b : Bytes) (o : Nat) (vs : Bytes) (i : Nat) :
    (bytesWrite b o vs)[i]? = if i < b.length then (if o ≤ i ∧ i < o + vs.length then vs[i - o]? else b[i]?) else none := by
  induction b generalizing o vs i with
  | nil => simp [bytesWrite]
  | cons x xs ih =>
    cases o with
    | zero =>
      cases vs with
      | nil =>
        simp only [bytesWrite, List.length_cons, List.length_nil]
        split
        · rw [if_neg (by omega)]
        · rw [List.getElem?_eq_none]; simp only [List.length_cons]; omega
      | cons v vs => cases i with
        | zero => simp [bytesWrite]
        | succ i => simp [bytesWrite, ih]
    | succ o => cases i with
      | zero => simp [bytesWrite]
      | succ i =>
        simp only [bytesWrite, List.getElem?_cons_succ, ih, List.length_cons, Nat.add_lt_add_iff_right,
          Nat.add_le_add_iff_right, Nat.add_sub_add_right]
        congr 1
        congr 1
        · simp only [eq_iff_iff]; omega

/-- Outside the written bytes every byte is as before (R152). -/
theorem bytesWrite_frame (b : Bytes) (o : Nat) (vs : Bytes) (i : Nat) (h : i < o ∨ o + vs.length ≤ i) :
    (bytesWrite b o vs)[i]? = b[i]? := by
  rw [bytesWrite_getElem?]
  split
  · rw [if_neg (by omega)]
  · rw [List.getElem?_eq_none]; omega

/-- Reading back the bytes written (R151). -/
theorem bytesRead_bytesWrite (b : Bytes) (o : Nat) (vs : Bytes) (h : o + vs.length ≤ b.length) :
    bytesRead (bytesWrite b o vs) o vs.length = vs := by
  apply List.ext_getElem?
  intro k
  rw [bytesRead_getElem?]
  split
  · rw [bytesWrite_getElem?, if_pos (by omega), if_pos (by omega), Nat.add_sub_cancel_left]
  · rw [List.getElem?_eq_none]; omega

/-- Reading bytes that a write does not touch. -/
theorem bytesRead_bytesWrite_disjoint (b : Bytes) (o : Nat) (vs : Bytes) (p n : Nat)
    (h : p + n ≤ o ∨ o + vs.length ≤ p) : bytesRead (bytesWrite b o vs) p n = bytesRead b p n := by
  apply List.ext_getElem?
  intro k
  rw [bytesRead_getElem?, bytesRead_getElem?]
  split
  · exact bytesWrite_frame b o vs (p + k) (by omega)
  · rfl

/-- Reading back the value written (R151). -/
theorem memRead_memWrite (b : Bytes) (o n v : Nat) (h : o + n ≤ b.length) :
    memRead (memWrite b o n v) o n = v % 256 ^ n := by
  have hr := bytesRead_bytesWrite b o (leBytes n v) (by simpa using h)
  rw [leBytes_length] at hr
  rw [memRead, memWrite, hr, leValue_leBytes]

/-- Reading a value that a write does not touch. -/
theorem memRead_memWrite_disjoint (b : Bytes) (o n v p m : Nat) (h : p + m ≤ o ∨ o + n ≤ p) :
    memRead (memWrite b o n v) p m = memRead b p m := by
  rw [memRead, memRead, memWrite, bytesRead_bytesWrite_disjoint b o (leBytes n v) p m (by simpa using h)]

/-- Writing back the bytes that stand there changes nothing. -/
theorem memWrite_memRead (b : Bytes) (o n : Nat) (h : o + n ≤ b.length) : memWrite b o n (memRead b o n) = b := by
  have hl : (bytesRead b o n).length = n := by rw [bytesRead_length]; omega
  have hb : leBytes n (memRead b o n) = bytesRead b o n := by
    have := leBytes_leValue (bytesRead b o n)
    rwa [hl] at this
  apply List.ext_getElem?
  intro i
  rw [memWrite, hb, bytesWrite_getElem?, hl]
  split
  · split
    · rw [bytesRead_getElem?, if_pos (by omega)]; congr 1; omega
    · rfl
  · rw [List.getElem?_eq_none]; omega

/-! ### The canonical form -/

/-- Every buffer is in canonical form (log 11), so every memory operation, and reset, keeps it. -/
theorem Memory.wf_all (b : Bytes) : Memory.wf b = true := by
  have h : List.map Prod.fst (Memory.cells b) = List.range b.length := by
    simp only [Memory.cells, List.map_map]
    have := List.zipIdx_map_snd 0 b
    rw [List.range_eq_range', ← this]
    rfl
  simp [Memory.wf, h]

/-- Equal cells are equal buffers: the form is the only one a buffer has. -/
theorem Memory.cells_injective (a b : Bytes) (h : Memory.cells a = Memory.cells b) : a = b := by
  have key : ∀ c : Bytes, (Memory.cells c).map Prod.snd = c := by
    intro c
    simp only [Memory.cells, List.map_map]
    have := List.zipIdx_map_fst 0 c
    rw [← this]
    simp [Function.comp_def]
  rw [← key a, ← key b, h]

/-- A write of bytes keeps the canonical form. -/
theorem Memory.wf_bytesWrite (b : Bytes) (o : Nat) (vs : Bytes) (_ : Memory.wf b = true) :
    Memory.wf (bytesWrite b o vs) = true := Memory.wf_all _

/-- A write of a value keeps the canonical form. -/
theorem Memory.wf_memWrite (b : Bytes) (o n v : Nat) (_ : Memory.wf b = true) :
    Memory.wf (memWrite b o n v) = true := Memory.wf_all _

/-- The buffer at reset is in canonical form. -/
theorem Memory.wf_reset : Memory.wf State.reset.ibuf = true := Memory.wf_all _

end Sys2Proof.Machine
end

