-- ==== Sys2Proof/Laws/Bits.lean ====
section
/-! SUPPORT. The bits of little-endian values and of bit-field containers (20_memory.md R63, 40_primitive_codec.md R147 to R150), and
writes that stand end to end. -/

namespace Sys2Proof.Machine

/-- Bit `j` of a little-endian value is bit `j mod 8` of byte `j / 8` (R63). -/
theorem leValue_testBit (bs : Bytes) (j : Nat) : (leValue bs).testBit j = (bs.getD (j / 8) 0).getLsbD (j % 8) := by
  induction bs generalizing j with
  | nil => simp [leValue]
  | cons b bs ih =>
    have hb := b.isLt
    rw [leValue, show b.toNat + 256 * leValue bs = 2 ^ 8 * leValue bs + b.toNat by omega,
      Nat.testBit_two_pow_mul_add _ hb]
    split
    · rw [show j / 8 = 0 by omega, show j % 8 = j by omega]; rfl
    · rw [ih, show j / 8 = (j - 8) / 8 + 1 by omega, show (j - 8) % 8 = j % 8 by omega]; rfl

/-- Bit `j` of a read of `n` bytes: the wire's bit below `8n`, zero above. -/
theorem memRead_testBit (b : Bytes) (o n j : Nat) :
    (memRead b o n).testBit j = (decide (j < 8 * n) && (b.getD (o + j / 8) 0).getLsbD (j % 8)) := by
  rw [memRead, leValue_testBit]
  have h : (bytesRead b o n).getD (j / 8) 0 = if j / 8 < n then b.getD (o + j / 8) 0 else 0 := by
    rw [List.getD_eq_getElem?_getD, bytesRead_getElem?]
    split <;> simp [List.getD_eq_getElem?_getD]
  rw [h]
  by_cases h2 : j / 8 < n
  · rw [if_pos h2, decide_eq_true (by omega)]; simp
  · rw [if_neg h2, decide_eq_false (by omega)]; simp

/-- Bit `j` of a container after a field is inserted: `VAL`'s bit inside the field, the old bit outside (R148, R150). -/
theorem insertField_testBit (w bo bw : Nat) (v : BitVec 64) (h : bo + bw ≤ 16) (j : Nat) (hj : j < 16) :
    (insertField w bo bw v).testBit j = if bo ≤ j ∧ j < bo + bw then v.getLsbD (j - bo) else w.testBit j := by
  rw [insertField, BitVec.testBit_toNat]
  simp only [BitVec.getLsbD_or, BitVec.getLsbD_and, BitVec.getLsbD_not, fieldMask, BitVec.getLsbD_shiftLeft,
    BitVec.getLsbD_ofNat, hj, decide_true, Bool.true_and, truncVal, Nat.testBit_mod_two_pow,
    Nat.testBit_two_pow_sub_one]
  by_cases h1 : bo ≤ j ∧ j < bo + bw
  · rw [if_pos h1]
    have e1 : decide (j < bo) = false := decide_eq_false (by omega)
    have e2 : decide (j - bo < 16) = true := decide_eq_true (by omega)
    have e3 : decide (j - bo < bw) = true := decide_eq_true (by omega)
    simp [e1, e2, e3, BitVec.testBit_toNat]
  · rw [if_neg h1]
    by_cases h2 : j < bo
    · simp [h2]
    · have e3 : decide (j - bo < bw) = false := decide_eq_false (by omega)
      simp [e3]

/-- Two writes end to end are one write of the bytes end to end. -/
theorem bytesWrite_append (b : Bytes) (o : Nat) (x y : Bytes) :
    bytesWrite (bytesWrite b o x) (o + x.length) y = bytesWrite b o (x ++ y) := by
  apply List.ext_getElem?
  intro i
  simp only [bytesWrite_getElem?, bytesWrite_length, List.length_append]
  split
  · by_cases h1 : o + x.length ≤ i ∧ i < o + x.length + y.length
    · rw [if_pos h1, if_pos (by omega), List.getElem?_append_right (by omega)]; congr 1; omega
    · rw [if_neg h1]
      by_cases h2 : o ≤ i ∧ i < o + x.length
      · rw [if_pos h2, if_pos (by omega), List.getElem?_append_left (by omega)]
      · rw [if_neg h2, if_neg (by omega)]
  · rfl

/-- A read of two adjacent ranges. -/
theorem bytesRead_append (b : Bytes) (o m n : Nat) :
    bytesRead b o (m + n) = bytesRead b o m ++ bytesRead b (o + m) n := by
  simp only [bytesRead, ← List.drop_drop]
  rw [List.take_add]

/-- A tiled layout ends at or after its start. -/
theorem layoutTiles_le (l : List Field) (o n : Nat) (h : layoutTiles o n l = true) : o ≤ n := by
  induction l generalizing o with
  | nil =>
    simp only [layoutTiles, beq_iff_eq] at h
    omega
  | cons f l ih =>
    simp only [layoutTiles, Bool.and_eq_true, beq_iff_eq] at h
    have := ih _ h.2
    omega

end Sys2Proof.Machine
end

