-- ==== Sys2Proof/Laws/Decode.lean ====
section
/-! SUPPORT. The fields of a packed command word (30_encoding.md R90), and the word packed from its fields. -/

namespace Sys2Proof

/-! ### A field of `OFF_BITS` bits -/

theorem lowBits_toNat (n : Nat) (v : BitVec 16) : (lowBits n v).toNat = v.toNat % 2 ^ n := by
  rw [lowBits, BitVec.toNat_ofNat]
  exact Nat.mod_eq_of_lt (lt_of_le_of_lt (Nat.mod_le _ _) v.isLt)

/-- A field of `n` bits holds a value below `2^n` (R62). -/
theorem lowBits_lt (n : Nat) (v : BitVec 16) : (lowBits n v).toNat < 2 ^ n := by
  rw [lowBits_toNat]
  exact Nat.mod_lt _ (Nat.two_pow_pos n)

/-- A value that fits the field is read back whole. -/
theorem lowBits_of_lt (n : Nat) (v : BitVec 16) (h : v.toNat < 2 ^ n) : lowBits n v = v :=
  BitVec.eq_of_toNat_eq (by rw [lowBits_toNat, Nat.mod_eq_of_lt h])

/-- At the default width the field is the whole place (R90). -/
@[simp] theorem lowBits_default (v : BitVec 16) : lowBits Config.offBits v = v := lowBits_of_lt _ v v.isLt

/-- The field of any width, from the field of the default width. -/
theorem cmdOff_eq_lowBits (n : Nat) (w : BitVec 64) : cmdOff n w = lowBits n (cmdOff Config.offBits w) := by
  rw [cmdOff, cmdOff, lowBits_default]

/-- The field of any width, from the field of the default width. -/
theorem cmdAux_eq_lowBits (n : Nat) (w : BitVec 64) : cmdAux n w = lowBits n (cmdAux Config.offBits w) := by
  rw [cmdAux, cmdAux, lowBits_default]

/-- Every operand fits the default width. -/
@[simp] theorem operandsFit_default (i : Instr) : i.operandsFit Config.offBits = true := by
  simp only [Instr.operandsFit, Bool.and_eq_true, decide_eq_true_eq]
  exact ⟨i.off.isLt, i.aux.isLt⟩

/-! ### The packed word -/

section
variable (n : Nat) (op : BitVec 5) (bo : BitVec 4) (bw : BitVec 5) (off aux : BitVec 16)

/-- A packed command word as a number: the fields do not overlap and fit 64 bits. -/
theorem packCommand_toNat : (packCommand op bo bw off aux).toNat =
    op.toNat + bo.toNat * 2 ^ 8 + bw.toNat * 2 ^ 12 + off.toNat * 2 ^ 32 + aux.toNat * 2 ^ 48 := by
  have h1 := op.isLt
  have h2 := bo.isLt
  have h3 := bw.isLt
  have h4 := off.isLt
  have h5 := aux.isLt
  rw [packCommand, BitVec.toNat_ofNat]
  omega

@[simp] theorem cmdOp_packCommand : cmdOp (packCommand op bo bw off aux) = op := by
  apply BitVec.eq_of_toNat_eq
  have h1 := op.isLt
  rw [cmdOp, BitVec.extractLsb'_toNat, packCommand_toNat, Nat.shiftRight_eq_div_pow]
  omega

@[simp] theorem cmdRsv0_packCommand : cmdRsv0 (packCommand op bo bw off aux) = 0 := by
  apply BitVec.eq_of_toNat_eq
  have h1 := op.isLt
  rw [cmdRsv0, BitVec.extractLsb'_toNat, packCommand_toNat, Nat.shiftRight_eq_div_pow]
  show _ = 0
  omega

@[simp] theorem cmdBitoff_packCommand : cmdBitoff (packCommand op bo bw off aux) = bo := by
  apply BitVec.eq_of_toNat_eq
  have h1 := op.isLt
  have h2 := bo.isLt
  rw [cmdBitoff, BitVec.extractLsb'_toNat, packCommand_toNat, Nat.shiftRight_eq_div_pow]
  omega

@[simp] theorem cmdBitw_packCommand : cmdBitw (packCommand op bo bw off aux) = bw := by
  apply BitVec.eq_of_toNat_eq
  have h1 := op.isLt
  have h2 := bo.isLt
  have h3 := bw.isLt
  rw [cmdBitw, BitVec.extractLsb'_toNat, packCommand_toNat, Nat.shiftRight_eq_div_pow]
  omega

@[simp] theorem cmdRsv1_packCommand : cmdRsv1 (packCommand op bo bw off aux) = 0 := by
  apply BitVec.eq_of_toNat_eq
  have h1 := op.isLt
  have h2 := bo.isLt
  have h3 := bw.isLt
  rw [cmdRsv1, BitVec.extractLsb'_toNat, packCommand_toNat, Nat.shiftRight_eq_div_pow]
  show _ = 0
  omega

@[simp] theorem cmdOff_packCommand : cmdOff n (packCommand op bo bw off aux) = lowBits n off := by
  rw [cmdOff]
  congr 1
  apply BitVec.eq_of_toNat_eq
  have h1 := op.isLt
  have h2 := bo.isLt
  have h3 := bw.isLt
  have h4 := off.isLt
  rw [BitVec.extractLsb'_toNat, packCommand_toNat, Nat.shiftRight_eq_div_pow]
  omega

@[simp] theorem cmdAux_packCommand : cmdAux n (packCommand op bo bw off aux) = lowBits n aux := by
  rw [cmdAux]
  congr 1
  apply BitVec.eq_of_toNat_eq
  have h1 := op.isLt
  have h2 := bo.isLt
  have h3 := bw.isLt
  have h4 := off.isLt
  have h5 := aux.isLt
  rw [BitVec.extractLsb'_toNat, packCommand_toNat, Nat.shiftRight_eq_div_pow]
  omega

/-- A packed command word passes the reserved-field check (R284). -/
theorem decodeCommand_packCommand :
    decodeCommand n (packCommand op bo bw off aux) = decodeOp n (packCommand op bo bw off aux) := by
  simp [decodeCommand]

end

/-- A command word whose reserved fields are 0 is packed from its own fields, at the default `OFF_BITS` (R90). -/
theorem packCommand_fields (w : BitVec 64) (h0 : cmdRsv0 w = 0) (h1 : cmdRsv1 w = 0) :
    packCommand (cmdOp w) (cmdBitoff w) (cmdBitw w) (cmdOff Config.offBits w) (cmdAux Config.offBits w) = w := by
  rw [cmdOff, cmdAux, lowBits_default, lowBits_default]
  apply BitVec.eq_of_toNat_eq
  have hw := w.isLt
  have g0 := congrArg BitVec.toNat h0
  have g1 := congrArg BitVec.toNat h1
  rw [packCommand_toNat]
  simp only [cmdOp, cmdBitoff, cmdBitw, cmdRsv0, cmdRsv1, BitVec.extractLsb'_toNat,
    Nat.shiftRight_eq_div_pow, BitVec.toNat_ofNat, Nat.zero_mod, BitVec.ofNat_eq_ofNat] at *
  omega

end Sys2Proof
end

