-- ==== Sys2Proof/Laws/State.lean ====
section
/-! SUPPORT. One lemma per field per update: the outputs of each kind of result, and the presented word. -/

namespace Sys2Proof.Machine

@[simp] theorem Outputs.error_status (e : Err) : (Outputs.error e).status = some e.code := rfl
@[simp] theorem Outputs.error_rval (e : Err) : (Outputs.error e).rval = none := rfl
@[simp] theorem Outputs.error_rdata (e : Err) : (Outputs.error e).rdata = none := rfl
@[simp] theorem Outputs.error_obuf (e : Err) : (Outputs.error e).obuf = none := rfl
@[simp] theorem Outputs.error_olen (e : Err) : (Outputs.error e).olen = none := rfl
@[simp] theorem Outputs.error_ohdr (e : Err) : (Outputs.error e).ohdr = none := rfl
@[simp] theorem Outputs.error_opld (e : Err) : (Outputs.error e).opld = none := rfl

@[simp] theorem Outputs.okRval_status (v : BitVec 64) : (Outputs.okRval v).status = some statusOk := rfl
@[simp] theorem Outputs.okRval_rval (v : BitVec 64) : (Outputs.okRval v).rval = some v := rfl
@[simp] theorem Outputs.okRval_rdata (v : BitVec 64) : (Outputs.okRval v).rdata = none := rfl
@[simp] theorem Outputs.okRval_obuf (v : BitVec 64) : (Outputs.okRval v).obuf = none := rfl
@[simp] theorem Outputs.okRval_olen (v : BitVec 64) : (Outputs.okRval v).olen = none := rfl
@[simp] theorem Outputs.okRval_ohdr (v : BitVec 64) : (Outputs.okRval v).ohdr = none := rfl
@[simp] theorem Outputs.okRval_opld (v : BitVec 64) : (Outputs.okRval v).opld = none := rfl

@[simp] theorem Outputs.okRdata_status (b : Bytes) : (Outputs.okRdata b).status = some statusOk := rfl
@[simp] theorem Outputs.okRdata_rval (b : Bytes) : (Outputs.okRdata b).rval = none := rfl
@[simp] theorem Outputs.okRdata_rdata (b : Bytes) : (Outputs.okRdata b).rdata = some b := rfl
@[simp] theorem Outputs.okRdata_obuf (b : Bytes) : (Outputs.okRdata b).obuf = none := rfl
@[simp] theorem Outputs.okRdata_olen (b : Bytes) : (Outputs.okRdata b).olen = none := rfl
@[simp] theorem Outputs.okRdata_ohdr (b : Bytes) : (Outputs.okRdata b).ohdr = none := rfl
@[simp] theorem Outputs.okRdata_opld (b : Bytes) : (Outputs.okRdata b).opld = none := rfl

@[simp] theorem Outputs.okObuf_status (b : Bytes) : (Outputs.okObuf b).status = some statusOk := rfl
@[simp] theorem Outputs.okObuf_rval (b : Bytes) : (Outputs.okObuf b).rval = none := rfl
@[simp] theorem Outputs.okObuf_rdata (b : Bytes) : (Outputs.okObuf b).rdata = none := rfl
@[simp] theorem Outputs.okObuf_obuf (b : Bytes) : (Outputs.okObuf b).obuf = some b := rfl
@[simp] theorem Outputs.okObuf_olen (b : Bytes) : (Outputs.okObuf b).olen = none := rfl
@[simp] theorem Outputs.okObuf_ohdr (b : Bytes) : (Outputs.okObuf b).ohdr = none := rfl
@[simp] theorem Outputs.okObuf_opld (b : Bytes) : (Outputs.okObuf b).opld = none := rfl

@[simp] theorem Outputs.okOlen_status (l : Nat) : (Outputs.okOlen l).status = some statusOk := rfl
@[simp] theorem Outputs.okOlen_rval (l : Nat) : (Outputs.okOlen l).rval = none := rfl
@[simp] theorem Outputs.okOlen_rdata (l : Nat) : (Outputs.okOlen l).rdata = none := rfl
@[simp] theorem Outputs.okOlen_obuf (l : Nat) : (Outputs.okOlen l).obuf = none := rfl
@[simp] theorem Outputs.okOlen_olen (l : Nat) : (Outputs.okOlen l).olen = some (BitVec.ofNat 16 l) := rfl
@[simp] theorem Outputs.okOlen_ohdr (l : Nat) : (Outputs.okOlen l).ohdr = none := rfl
@[simp] theorem Outputs.okOlen_opld (l : Nat) : (Outputs.okOlen l).opld = none := rfl

@[simp] theorem Outputs.okOhdr_status (h : Header) : (Outputs.okOhdr h).status = some statusOk := rfl
@[simp] theorem Outputs.okOhdr_rval (h : Header) : (Outputs.okOhdr h).rval = none := rfl
@[simp] theorem Outputs.okOhdr_rdata (h : Header) : (Outputs.okOhdr h).rdata = none := rfl
@[simp] theorem Outputs.okOhdr_obuf (h : Header) : (Outputs.okOhdr h).obuf = none := rfl
@[simp] theorem Outputs.okOhdr_olen (h : Header) : (Outputs.okOhdr h).olen = none := rfl
@[simp] theorem Outputs.okOhdr_ohdr (h : Header) : (Outputs.okOhdr h).ohdr = some h := rfl
@[simp] theorem Outputs.okOhdr_opld (h : Header) : (Outputs.okOhdr h).opld = none := rfl

@[simp] theorem Outputs.okOpld_status (p : Payload) : (Outputs.okOpld p).status = some statusOk := rfl
@[simp] theorem Outputs.okOpld_rval (p : Payload) : (Outputs.okOpld p).rval = none := rfl
@[simp] theorem Outputs.okOpld_rdata (p : Payload) : (Outputs.okOpld p).rdata = none := rfl
@[simp] theorem Outputs.okOpld_obuf (p : Payload) : (Outputs.okOpld p).obuf = none := rfl
@[simp] theorem Outputs.okOpld_olen (p : Payload) : (Outputs.okOpld p).olen = none := rfl
@[simp] theorem Outputs.okOpld_ohdr (p : Payload) : (Outputs.okOpld p).ohdr = none := rfl
@[simp] theorem Outputs.okOpld_opld (p : Payload) : (Outputs.okOpld p).opld = some p := rfl

@[simp] theorem Outputs.okPacket_status (h : Header) (p : Payload) : (Outputs.okPacket h p).status = some statusOk := rfl
@[simp] theorem Outputs.okPacket_rval (h : Header) (p : Payload) : (Outputs.okPacket h p).rval = none := rfl
@[simp] theorem Outputs.okPacket_rdata (h : Header) (p : Payload) : (Outputs.okPacket h p).rdata = none := rfl
@[simp] theorem Outputs.okPacket_obuf (h : Header) (p : Payload) : (Outputs.okPacket h p).obuf = none := rfl
@[simp] theorem Outputs.okPacket_olen (h : Header) (p : Payload) : (Outputs.okPacket h p).olen = none := rfl
@[simp] theorem Outputs.okPacket_ohdr (h : Header) (p : Payload) : (Outputs.okPacket h p).ohdr = some h := rfl
@[simp] theorem Outputs.okPacket_opld (h : Header) (p : Payload) : (Outputs.okPacket h p).opld = some p := rfl

@[simp] theorem State.present_command_registry (s : State) (w : BitVec 64) :
    (s.present (.command w)).registry = s.registry := rfl
@[simp] theorem State.present_command_offBits (s : State) (w : BitVec 64) :
    (s.present (.command w)).offBits = s.offBits := rfl
@[simp] theorem State.present_command_format (s : State) (w : BitVec 64) :
    (s.present (.command w)).format = .command := rfl
@[simp] theorem State.present_command_cmd (s : State) (w : BitVec 64) :
    (s.present (.command w)).cmd = w := rfl
@[simp] theorem State.present_command_msgType (s : State) (w : BitVec 64) :
    (s.present (.command w)).msgType = s.msgType := rfl
@[simp] theorem State.present_command_contract (s : State) (w : BitVec 64) :
    (s.present (.command w)).contract = s.contract := rfl
@[simp] theorem State.present_command_val (s : State) (w : BitVec 64) :
    (s.present (.command w)).val = s.val := rfl
@[simp] theorem State.present_command_ibuf (s : State) (w : BitVec 64) :
    (s.present (.command w)).ibuf = s.ibuf := rfl
@[simp] theorem State.present_command_data (s : State) (w : BitVec 64) :
    (s.present (.command w)).data = s.data := rfl
@[simp] theorem State.present_command_hdr (s : State) (w : BitVec 64) :
    (s.present (.command w)).hdr = s.hdr := rfl
@[simp] theorem State.present_command_pld (s : State) (w : BitVec 64) :
    (s.present (.command w)).pld = s.pld := rfl
@[simp] theorem State.present_command_out (s : State) (w : BitVec 64) :
    (s.present (.command w)).out = s.out := rfl

@[simp] theorem State.present_messageType_registry (s : State) (w : BitVec 16) :
    (s.present (.messageType w)).registry = s.registry := rfl
@[simp] theorem State.present_messageType_offBits (s : State) (w : BitVec 16) :
    (s.present (.messageType w)).offBits = s.offBits := rfl
@[simp] theorem State.present_messageType_format (s : State) (w : BitVec 16) :
    (s.present (.messageType w)).format = .messageType := rfl
@[simp] theorem State.present_messageType_cmd (s : State) (w : BitVec 16) :
    (s.present (.messageType w)).cmd = s.cmd := rfl
@[simp] theorem State.present_messageType_msgType (s : State) (w : BitVec 16) :
    (s.present (.messageType w)).msgType = w := rfl
@[simp] theorem State.present_messageType_contract (s : State) (w : BitVec 16) :
    (s.present (.messageType w)).contract = s.contract := rfl
@[simp] theorem State.present_messageType_val (s : State) (w : BitVec 16) :
    (s.present (.messageType w)).val = s.val := rfl
@[simp] theorem State.present_messageType_ibuf (s : State) (w : BitVec 16) :
    (s.present (.messageType w)).ibuf = s.ibuf := rfl
@[simp] theorem State.present_messageType_data (s : State) (w : BitVec 16) :
    (s.present (.messageType w)).data = s.data := rfl
@[simp] theorem State.present_messageType_hdr (s : State) (w : BitVec 16) :
    (s.present (.messageType w)).hdr = s.hdr := rfl
@[simp] theorem State.present_messageType_pld (s : State) (w : BitVec 16) :
    (s.present (.messageType w)).pld = s.pld := rfl
@[simp] theorem State.present_messageType_out (s : State) (w : BitVec 16) :
    (s.present (.messageType w)).out = s.out := rfl

/-- What the host presents is what the step fetches. -/
@[simp] theorem State.fetchWord_present (s : State) (w : FetchWord) : (s.present w).fetchWord = w := by
  cases w <;> rfl

/-- Presenting a word of either format leaves the parameter `OFF_BITS`. -/
@[simp] theorem State.present_offBits (s : State) (w : FetchWord) : (s.present w).offBits = s.offBits := by
  cases w <;> rfl

end Sys2Proof.Machine
end

