-- ==== Sys2Proof/Laws/Ops.lean ====
section
/-! SUPPORT. One lemma per shared operation that says once all it can do; a proof about an instruction cites these instead of
unfolding the operation. -/

namespace Sys2Proof.Machine

/-! ### Ending a transaction -/

/-- The outputs a result leaves on the ports. -/
def outputsOf : Except Err Outputs → Outputs
  | .ok o => o
  | .error e => Outputs.error e

@[simp] theorem outputsOf_ok (o : Outputs) : outputsOf (.ok o) = o := rfl
@[simp] theorem outputsOf_error (e : Err) : outputsOf (.error e) = Outputs.error e := rfl

/-- Taking an error is a next state that differs in the output ports alone (R280). -/
theorem raise_eq (e : Err) (s : State) : State.raise e s = .next { s with out := Outputs.error e } := rfl

/-- A transaction ends in a next state that differs in the output ports alone (R70). -/
theorem finish_eq (s : State) (r : Except Err Outputs) : s.finish r = .next { s with out := outputsOf r } := by
  cases r <;> rfl

@[simp] theorem finish_ok (s : State) (o : Outputs) : s.finish (.ok o) = .next { s with out := o } := rfl
@[simp] theorem finish_error (s : State) (e : Err) : s.finish (.error e) = .next { s with out := Outputs.error e } := rfl

@[simp] theorem except_map_ok {α β : Type} (f : α → β) (a : α) :
    Except.map f (.ok a : Except Err α) = .ok (f a) := rfl
@[simp] theorem except_map_error {α β : Type} (f : α → β) (e : Err) :
    Except.map f (.error e : Except Err α) = .error e := rfl

/-- The word that is presented selects what the step runs. -/
theorem step_of_decode (s : State) (i : Instr) (h : decode s.offBits s.fetchWord = .ok i) : step s = exec i s := by
  simp [step, h]

/-- A word that selects nothing takes its error. -/
theorem step_of_decode_error (s : State) (e : DecodeError) (h : decode s.offBits s.fetchWord = .error e) :
    step s = .next { s with out := Outputs.error (errOfDecode e) } := by
  simp [step, h, raise_eq]

/-! ### Primitive operations -/

theorem inBounds_iff (b : Bytes) (o w : Nat) : inBounds b o w = true ↔ o + w ≤ b.length := by simp [inBounds]

/-- A value read answers the bytes' value in bounds, and OutOfBounds otherwise (R64). -/
theorem readField_eq (b : Bytes) (o w : Nat) :
    readField b o w = if o + w ≤ b.length then .ok (memRead b o w) else .error .outOfBounds := by
  simp [readField, inBounds]

/-- A value write answers the written copy in bounds, and OutOfBounds otherwise (R64, R130). -/
theorem writeField_eq (b : Bytes) (o w v : Nat) :
    writeField b o w v = if o + w ≤ b.length then .ok (memWrite b o w v) else .error .outOfBounds := by
  simp [writeField, inBounds]

/-- A byte-array read (R139). -/
theorem readBytes_eq (b : Bytes) (o n : Nat) :
    readBytes b o n = if o + n ≤ b.length then .ok (bytesRead b o n) else .error .outOfBounds := by
  simp [readBytes, inBounds]

/-- A byte-array write (R146). -/
theorem writeBytes_eq (b : Bytes) (o n : Nat) (d : Bytes) :
    writeBytes b o n d =
      if d.length ≠ n then .error .illegalOperation
      else if o + n ≤ b.length then .ok (bytesWrite b o d) else .error .outOfBounds := by
  simp [writeBytes, inBounds]

theorem bitFieldLegal_iff (bo bw : Nat) : bitFieldLegal bo bw = true ↔ 1 ≤ bw ∧ bw ≤ 16 ∧ bo + bw ≤ 16 := by
  simp [bitFieldLegal, and_assoc]

/-- The container of a legal bit field is one or two bytes that hold the field (R147). -/
theorem containerBytes_bounds (bo bw : Nat) (h : bitFieldLegal bo bw = true) :
    1 ≤ containerBytes bo bw ∧ containerBytes bo bw ≤ 2 ∧ bo + bw ≤ 8 * containerBytes bo bw := by
  rw [bitFieldLegal_iff] at h
  simp only [containerBytes]
  omega

/-- A bit-field read: the operands' check, the container's bounds, the field (R149). -/
theorem readBits_eq (b : Bytes) (o bo bw : Nat) :
    readBits b o bo bw =
      if bitFieldLegal bo bw = false then .error .illegalOperation
      else if o + containerBytes bo bw ≤ b.length then
        .ok (extractField (memRead b o (containerBytes bo bw)) bo bw)
      else .error .outOfBounds := by
  simp [readBits, inBounds]

/-- A bit-field write: the operands' check, the container's bounds, the field in its container (R150). -/
theorem writeBits_eq (b : Bytes) (o bo bw : Nat) (v : BitVec 64) :
    writeBits b o bo bw v =
      if bitFieldLegal bo bw = false then .error .illegalOperation
      else if o + containerBytes bo bw ≤ b.length then
        .ok (memWrite b o (containerBytes bo bw) (insertField (memRead b o (containerBytes bo bw)) bo bw v))
      else .error .outOfBounds := by
  simp [writeBits, inBounds]

/-! ### The header codec -/

/-- A header is 36 bytes long (R173). -/
@[simp] theorem encodeHeader_length (h : Header) : (encodeHeader h).length = 36 := by simp [encodeHeader]

/-- A decoded header is the fields of a long enough buffer, and it is valid (R171, R174). -/
theorem decodeHeader_ok (b : Bytes) (h : Header) :
    decodeHeader b = .ok h ↔ 36 ≤ b.length ∧ h = headerFields b ∧ h.valid = true := by
  simp only [decodeHeader, checkHeader, Header.valid, Config.headerLen, Config.maxPacket]
  constructor
  · intro hd
    repeat' split at hd
    all_goals simp_all
  · rintro ⟨hl, rfl, hv⟩
    simp only [Bool.and_eq_true, beq_iff_eq, decide_eq_true_eq] at hv
    obtain ⟨⟨⟨h1, h2⟩, h3⟩, h4⟩ := hv
    rw [if_neg (by omega), if_neg (by simp [h1]), if_neg (by simp [h2]), if_neg (by omega)]

/-! ### The payload codec -/

section
variable (f : Field) (fs : List Field) (x : FieldName × Value) (vs : List (FieldName × Value)) (b : Bytes)

@[simp] theorem fieldsMatch_nil : fieldsMatch [] vs = vs.isEmpty := rfl

/-- A reserved field matches nothing of the record (R194). -/
theorem fieldsMatch_reserved (h : f.kind.isReserved = true) : fieldsMatch (f :: fs) vs = fieldsMatch fs vs := by
  cases vs <;> simp [fieldsMatch, h]

/-- A field needs a value of its name and kind (R36). -/
theorem fieldsMatch_field (h : f.kind.isReserved = false) :
    fieldsMatch (f :: fs) (x :: vs) = (x.1 == f.name && x.2.hasKind f.kind && fieldsMatch fs vs) := by
  simp [fieldsMatch, h]

@[simp] theorem fieldsMatch_field_nil (h : f.kind.isReserved = false) : fieldsMatch (f :: fs) [] = false := by
  simp [fieldsMatch, h]

@[simp] theorem encodeFields_nil : encodeFields [] vs b = b := rfl

/-- A reserved field writes nothing (R192). -/
theorem encodeFields_reserved (h : f.kind.isReserved = true) : encodeFields (f :: fs) vs b = encodeFields fs vs b := by
  cases vs <;> simp [encodeFields, h]

/-- A field writes its value at its offset (R192). -/
theorem encodeFields_field (h : f.kind.isReserved = false) :
    encodeFields (f :: fs) (x :: vs) b = encodeFields fs vs (encodeValue b f.offset x.2) := by
  simp [encodeFields, h]

end

@[simp] theorem encodeHsbk_length (b : Bytes) (o : Nat) (c : Hsbk) : (encodeHsbk b o c).length = b.length := by
  simp [encodeHsbk]

/-- Writing a value keeps the length. -/
@[simp] theorem encodeValue_length (b : Bytes) (o : Nat) (v : Value) : (encodeValue b o v).length = b.length := by
  cases v <;> simp [encodeValue]

/-- Writing the fields of a record keeps the length. -/
@[simp] theorem encodeFields_length (fs : List Field) (vs : List (FieldName × Value)) (b : Bytes) :
    (encodeFields fs vs b).length = b.length := by
  induction fs generalizing vs b with
  | nil => rfl
  | cons f fs ih =>
    cases h : f.kind.isReserved
    · cases vs with
      | nil => simp [encodeFields, h]
      | cons x vs => rw [encodeFields_field f fs x vs b h, ih, encodeValue_length]
    · rw [encodeFields_reserved f fs vs b h, ih]

/-! ### The registry -/

/-- The entry found for a type is registered under that type (R190). -/
theorem find_some (r : Registry) (mt : BitVec 16) (e : Entry) (h : r.find mt = some e) : e ∈ r ∧ e.mtype = mt :=
  ⟨List.mem_of_find?_eq_some h, by simpa using List.find?_some h⟩

/-- A type is unregistered when no entry has its code (R190). -/
theorem find_none_iff (r : Registry) (mt : BitVec 16) : r.find mt = none ↔ ∀ e ∈ r, e.mtype ≠ mt := by
  simp [Registry.find]

/-- In a registry with one entry per type, each entry is the one found for its type (R190). -/
theorem find_of_mem (r : Registry) (hm : (r.map Entry.mtype).Nodup) (e : Entry) (he : e ∈ r) :
    r.find e.mtype = some e := by
  induction r with
  | nil => cases he
  | cons a r ih =>
    simp only [List.map_cons, List.nodup_cons] at hm
    rw [Registry.find, List.find?_cons]
    rcases List.mem_cons.1 he with rfl | h
    · simp
    · have hne : a.mtype ≠ e.mtype := fun h2 => hm.1 (by rw [h2]; exact List.mem_map_of_mem h)
      rw [beq_false_of_ne hne]
      exact ih hm.2 h

/-- A permitted registry has one entry per type (R191 item 1). -/
theorem nodup_of_valid (r : Registry) (h : r.valid = true) : (r.map Entry.mtype).Nodup := by
  simp only [Registry.valid, Registry.hasCatalog, Bool.and_eq_true, decide_eq_true_eq] at h
  exact h.1.1.1.1

/-- The layout of an entry of a permitted registry covers its payload, of at most 92 bytes (R191 items 2 and 3). -/
theorem tiles_of_valid (r : Registry) (h : r.valid = true) (e : Entry) (he : e ∈ r) :
    layoutTiles 0 e.length e.layout = true ∧ e.length ≤ 92 := by
  simp only [Registry.valid, Bool.and_eq_true, List.all_eq_true] at h
  have hv := h.1.2 e he
  simp only [Entry.valid, Bool.and_eq_true, decide_eq_true_eq, Config.headerLen, Config.maxPacket] at hv
  exact ⟨hv.1.2, by omega⟩

/-! ### The payload operations -/

/-- A registry lookup (R240). -/
theorem lookupLength_ok (r : Registry) (mt : BitVec 16) (l : Nat) :
    lookupLength r mt = .ok l ↔ ∃ e, r.find mt = some e ∧ e.length = l := by
  unfold lookupLength
  cases r.find mt <;> simp

/-- An encoded payload: a registered type and a record of its layout (R241). -/
theorem encodePayload_ok (r : Registry) (p : Payload) (b : Bytes) :
    encodePayload r p = .ok b ↔
      ∃ e, r.find p.mtype = some e ∧ fieldsMatch e.layout p.fields = true ∧
        b = encodeFields e.layout p.fields (zeroBytes e.length) := by
  unfold encodePayload
  cases r.find p.mtype with
  | none => simp
  | some e =>
    cases h : fieldsMatch e.layout p.fields
    · simp [h]
    · simp only [h, if_true, Except.ok.injEq, Option.some.injEq, exists_eq_left', true_and]
      exact eq_comm

/-- A decoded payload: a registered type and enough bytes (R242). -/
theorem decodePayload_ok (r : Registry) (mt : BitVec 16) (b : Bytes) (p : Payload) :
    decodePayload r mt b = .ok p ↔
      ∃ e, r.find mt = some e ∧ e.length ≤ b.length ∧ p = ⟨mt, decodeFields e.layout b⟩ := by
  unfold decodePayload
  cases r.find mt with
  | none => simp
  | some e =>
    by_cases h : b.length < e.length
    · simp only [if_pos h, reduceCtorEq, Option.some.injEq, exists_eq_left', false_iff, not_and]
      omega
    · simp only [if_neg h, Except.ok.injEq, Option.some.injEq, exists_eq_left', Nat.le_of_not_lt h, true_and]
      exact eq_comm

/-- The encode contract of a type is the payload encoder for records of that type (log 10). -/
theorem encodeVariant_of_tag (r : Registry) (p : Payload) : encodeVariant r p.mtype p = encodePayload r p := by
  unfold encodeVariant encodePayload
  cases r.find p.mtype <;> simp

/-- A message-type word under each contract is the registry operation on its code (log 1, log 10). -/
theorem runVariant_eq (mt : BitVec 16) (s : State) :
    runVariant mt s = .next { s with out := outputsOf (variantResult mt s) } := finish_eq s _

theorem variantResult_lookup (mt : BitVec 16) (s : State) (h : s.contract = .lookup) :
    variantResult mt s = (lookupLength s.registry mt).map Outputs.okOlen := by simp [variantResult, h]

theorem variantResult_encode (mt : BitVec 16) (s : State) (h : s.contract = .encode) :
    variantResult mt s = (encodeVariant s.registry mt s.pld).map Outputs.okObuf := by simp [variantResult, h]

theorem variantResult_decode (mt : BitVec 16) (s : State) (h : s.contract = .decode) :
    variantResult mt s = (decodePayload s.registry mt s.ibuf).map Outputs.okOpld := by simp [variantResult, h]

/-! ### The packet codec -/

/-- An assembled packet: a registered type, a record of its layout, a total of at most 128 bytes (R260). -/
theorem assemblePacket_ok (r : Registry) (h : Header) (p : Payload) (b : Bytes) :
    assemblePacket r h p = .ok b ↔
      ∃ e, r.find p.mtype = some e ∧ fieldsMatch e.layout p.fields = true ∧ 36 + e.length ≤ 128 ∧
        b = encodeHeader { h with size := BitVec.ofNat 16 (36 + e.length), messageType := p.mtype }
          ++ encodeFields e.layout p.fields (zeroBytes e.length) := by
  unfold assemblePacket
  cases r.find p.mtype with
  | none => simp
  | some e =>
    cases hm : fieldsMatch e.layout p.fields
    · simp [hm]
    · by_cases ht : Config.headerLen + e.length > Config.maxPacket
      · simp only [Config.headerLen, Config.maxPacket] at ht
        simp only [hm, Bool.not_true, Bool.false_eq_true, if_false, Config.headerLen, Config.maxPacket, if_pos ht,
          reduceCtorEq, Option.some.injEq, exists_eq_left', true_and, false_iff, not_and]
        intro hle
        omega
      · simp only [Config.headerLen, Config.maxPacket] at ht
        simp only [hm, Bool.not_true, Bool.false_eq_true, if_false, if_neg ht, Except.ok.injEq, Option.some.injEq,
          exists_eq_left', true_and]
        constructor
        · rintro rfl; exact ⟨by omega, rfl⟩
        · rintro ⟨-, rfl⟩; rfl

/-- A parsed packet: a valid header, a registered type, a long enough buffer, the declared size, and the record (R261). -/
theorem parsePacket_ok (r : Registry) (b : Bytes) (h : Header) (p : Payload) :
    parsePacket r b = .ok (h, p) ↔
      ∃ e, decodeHeader b = .ok h ∧ r.find h.messageType = some e ∧ 36 + e.length ≤ b.length ∧
        h.size.toNat = 36 + e.length ∧ p = ⟨h.messageType, decodeFields e.layout (bytesRead b 36 e.length)⟩ := by
  unfold parsePacket
  cases hd : decodeHeader b with
  | error e => simp
  | ok h' =>
    simp only [parseBody, Except.ok.injEq]
    cases hf : r.find h'.messageType with
    | none =>
      simp only [reduceCtorEq, false_iff, not_exists, not_and]
      rintro e rfl hf'
      simp [hf] at hf'
    | some e =>
      have hlen : 36 + e.length ≤ b.length → (bytesRead b 36 e.length).length = e.length := by
        intro hl; rw [bytesRead_length]; omega
      simp only [Config.headerLen]
      split
      · simp only [reduceCtorEq, false_iff, not_exists, not_and]
        rintro e' rfl hf'
        rw [hf] at hf'; cases hf'
        intro; omega
      · split
        · simp only [reduceCtorEq, false_iff, not_exists, not_and]
          rintro e' rfl hf'
          rw [hf] at hf'; cases hf'
          intro _ hs; omega
        · rename_i h1 h2
          have h3 : decodePayload r h'.messageType (bytesRead b 36 e.length)
              = .ok ⟨h'.messageType, decodeFields e.layout (bytesRead b 36 e.length)⟩ := by
            rw [decodePayload_ok]
            exact ⟨e, hf, by rw [hlen (by omega)], rfl⟩
          rw [h3]
          simp only [except_map_ok, Except.ok.injEq, Prod.mk.injEq]
          constructor
          · rintro ⟨rfl, rfl⟩
            exact ⟨e, rfl, hf, by omega, by omega, rfl⟩
          · rintro ⟨e', rfl, hf', -, -, rfl⟩
            rw [hf] at hf'; cases hf'
            exact ⟨rfl, rfl⟩

end Sys2Proof.Machine
end

