-- ==== Sys2Proof/Laws/PerInstr.lean ====
section
/-! SUPPORT. Statements made for every instruction, one lemma per constructor. `EncodesAsRow`: the word of an instruction matches
its row of spec/opcode_table.json: under the row's mask `0xFFFE00FF` a command word has the row's `match` in bits 7:0 and 0 in bits
31:17 (30_encoding.md R90, R92), and a message-type word is the row's code (R107). -/

namespace Sys2Proof.Laws.EncodesAsRow

/-- The `match` of the row of each instruction, as the table gives it. -/
def rowMatch : Instr → Nat
  | .rdU8 _ => 0
  | .rdU16 _ => 1
  | .rdU32 _ => 2
  | .rdU64 _ => 3
  | .rdI16 _ => 4
  | .rdF32 _ => 5
  | .rdBytes _ _ => 6
  | .rdBits _ _ _ => 7
  | .wrU8 _ => 8
  | .wrU16 _ => 9
  | .wrU32 _ => 10
  | .wrU64 _ => 11
  | .wrI16 _ => 12
  | .wrF32 _ => 13
  | .wrBytes _ _ => 14
  | .wrBits _ _ _ => 15
  | .encHdr => 16
  | .decHdr => 17
  | .lookup _ => 18
  | .encPld => 19
  | .decPld _ => 20
  | .assemble => 21
  | .parse => 22
  | .getService => 2
  | .stateService => 3
  | .getHostInfo => 12
  | .stateHostInfo => 13
  | .getHostFirmware => 14
  | .stateHostFirmware => 15
  | .getWifiInfo => 16
  | .stateWifiInfo => 17
  | .getWifiFirmware => 18
  | .stateWifiFirmware => 19
  | .getPower => 20
  | .setPower => 21
  | .statePower => 22
  | .getLabel => 23
  | .setLabel => 24
  | .stateLabel => 25
  | .getVersion => 32
  | .stateVersion => 33
  | .getInfo => 34
  | .stateInfo => 35
  | .acknowledgement => 45
  | .getLocation => 48
  | .setLocation => 49
  | .stateLocation => 50
  | .getGroup => 51
  | .setGroup => 52
  | .stateGroup => 53
  | .getUnknown => 54
  | .setUnknown => 55
  | .stateUnknown => 56
  | .echoRequest => 58
  | .echoResponse => 59
  | .lightGet => 101
  | .lightSetColor => 102
  | .lightSetWaveform => 103
  | .lightState => 107
  | .lightGetPower => 116
  | .lightSetPower => 117
  | .lightStatePower => 118
  | .lightSetWaveformOptional => 119
  | .lightGetInfrared => 120
  | .lightStateInfrared => 121
  | .lightSetInfrared => 122

/-- The word of the instruction matches the row. -/
def wordMatches (m : Nat) : FetchWord → Prop
  | .command w => w.toNat % 2 ^ 8 = m ∧ w.toNat / 2 ^ 17 % 2 ^ 15 = 0
  | .messageType w => w = BitVec.ofNat 16 m

/-- The instruction encodes as its row of the table. -/
def Statement (i : Instr) : Prop := wordMatches (rowMatch i) (encode i)

/-- The masked bits of a packed command word are its operation code. -/
theorem packCommand_masked (op : BitVec 5) (bo : BitVec 4) (bw : BitVec 5) (off aux : BitVec 16) :
    wordMatches op.toNat (.command (packCommand op bo bw off aux)) := by
  have h1 := op.isLt
  have h2 := bo.isLt
  have h3 := bw.isLt
  simp only [wordMatches, packCommand_toNat]
  omega

theorem rdU8 (off : BitVec 16) : Statement (.rdU8 off) := packCommand_masked ..
theorem rdU16 (off : BitVec 16) : Statement (.rdU16 off) := packCommand_masked ..
theorem rdU32 (off : BitVec 16) : Statement (.rdU32 off) := packCommand_masked ..
theorem rdU64 (off : BitVec 16) : Statement (.rdU64 off) := packCommand_masked ..
theorem rdI16 (off : BitVec 16) : Statement (.rdI16 off) := packCommand_masked ..
theorem rdF32 (off : BitVec 16) : Statement (.rdF32 off) := packCommand_masked ..
theorem rdBytes (off : BitVec 16) (n : BitVec 16) : Statement (.rdBytes off n) := packCommand_masked ..
theorem rdBits (off : BitVec 16) (bitoff : BitVec 4) (bitw : BitVec 5) : Statement (.rdBits off bitoff bitw) := packCommand_masked ..
theorem wrU8 (off : BitVec 16) : Statement (.wrU8 off) := packCommand_masked ..
theorem wrU16 (off : BitVec 16) : Statement (.wrU16 off) := packCommand_masked ..
theorem wrU32 (off : BitVec 16) : Statement (.wrU32 off) := packCommand_masked ..
theorem wrU64 (off : BitVec 16) : Statement (.wrU64 off) := packCommand_masked ..
theorem wrI16 (off : BitVec 16) : Statement (.wrI16 off) := packCommand_masked ..
theorem wrF32 (off : BitVec 16) : Statement (.wrF32 off) := packCommand_masked ..
theorem wrBytes (off : BitVec 16) (n : BitVec 16) : Statement (.wrBytes off n) := packCommand_masked ..
theorem wrBits (off : BitVec 16) (bitoff : BitVec 4) (bitw : BitVec 5) : Statement (.wrBits off bitoff bitw) := packCommand_masked ..
theorem encHdr : Statement .encHdr := packCommand_masked ..
theorem decHdr : Statement .decHdr := packCommand_masked ..
theorem lookup (mtype : BitVec 16) : Statement (.lookup mtype) := packCommand_masked ..
theorem encPld : Statement .encPld := packCommand_masked ..
theorem decPld (mtype : BitVec 16) : Statement (.decPld mtype) := packCommand_masked ..
theorem assemble : Statement .assemble := packCommand_masked ..
theorem parse : Statement .parse := packCommand_masked ..
theorem getService : Statement .getService := rfl
theorem stateService : Statement .stateService := rfl
theorem getHostInfo : Statement .getHostInfo := rfl
theorem stateHostInfo : Statement .stateHostInfo := rfl
theorem getHostFirmware : Statement .getHostFirmware := rfl
theorem stateHostFirmware : Statement .stateHostFirmware := rfl
theorem getWifiInfo : Statement .getWifiInfo := rfl
theorem stateWifiInfo : Statement .stateWifiInfo := rfl
theorem getWifiFirmware : Statement .getWifiFirmware := rfl
theorem stateWifiFirmware : Statement .stateWifiFirmware := rfl
theorem getPower : Statement .getPower := rfl
theorem setPower : Statement .setPower := rfl
theorem statePower : Statement .statePower := rfl
theorem getLabel : Statement .getLabel := rfl
theorem setLabel : Statement .setLabel := rfl
theorem stateLabel : Statement .stateLabel := rfl
theorem getVersion : Statement .getVersion := rfl
theorem stateVersion : Statement .stateVersion := rfl
theorem getInfo : Statement .getInfo := rfl
theorem stateInfo : Statement .stateInfo := rfl
theorem acknowledgement : Statement .acknowledgement := rfl
theorem getLocation : Statement .getLocation := rfl
theorem setLocation : Statement .setLocation := rfl
theorem stateLocation : Statement .stateLocation := rfl
theorem getGroup : Statement .getGroup := rfl
theorem setGroup : Statement .setGroup := rfl
theorem stateGroup : Statement .stateGroup := rfl
theorem getUnknown : Statement .getUnknown := rfl
theorem setUnknown : Statement .setUnknown := rfl
theorem stateUnknown : Statement .stateUnknown := rfl
theorem echoRequest : Statement .echoRequest := rfl
theorem echoResponse : Statement .echoResponse := rfl
theorem lightGet : Statement .lightGet := rfl
theorem lightSetColor : Statement .lightSetColor := rfl
theorem lightSetWaveform : Statement .lightSetWaveform := rfl
theorem lightState : Statement .lightState := rfl
theorem lightGetPower : Statement .lightGetPower := rfl
theorem lightSetPower : Statement .lightSetPower := rfl
theorem lightStatePower : Statement .lightStatePower := rfl
theorem lightSetWaveformOptional : Statement .lightSetWaveformOptional := rfl
theorem lightGetInfrared : Statement .lightGetInfrared := rfl
theorem lightStateInfrared : Statement .lightStateInfrared := rfl
theorem lightSetInfrared : Statement .lightSetInfrared := rfl

end Sys2Proof.Laws.EncodesAsRow
end

