-- ==== Sys2Proof/Tests/Slice0.lean ====
section
/-! SUPPORT. Tests. Expected results come from 95_test_vectors.md (the section is named at each test) or, for decoding, from the
encoding tables of 30_encoding.md written out by hand. A `test_witness_<Name>` theorem shows a state and operands that meet the
hypotheses of `Obligations.<Name>`, one per clause, at boundary values of its range; it claims nothing else. -/

namespace Sys2Proof.Tests

open Sys2Proof Sys2Proof.Machine Sys2Proof.Statement

/-! ### Helpers -/

/-- The outputs of a transaction that ends in a next state. -/
def outOf : Host.Outcome State Fault Refusal → Option Outputs
  | .next s => some s.out
  | .fault _ => none
  | .refused _ => none

/-- The reset state with a buffer on `IBUF`. -/
def withBuf (b : Bytes) : State := { State.reset with ibuf := b }

/-- The reset state with a buffer on `IBUF` and a value on `VAL`. -/
def withVal (b : Bytes) (v : BitVec 64) : State := { State.reset with ibuf := b, val := v }

/-- The reset state with a record on `PLD`. -/
def withPld (mt : BitVec 16) (fields : List (FieldName × Value)) : State := { State.reset with pld := ⟨mt, fields⟩ }

/-- The reset state with a command word presented. -/
def withCmd (w : BitVec 64) : State := State.reset.present (.command w)

/-- The reset state with a message-type word presented. -/
def withMsg (w : BitVec 16) : State := State.reset.present (.messageType w)

/-- A buffer with one byte replaced. -/
def poke (b : Bytes) (o : Nat) (v : Byte) : Bytes := bytesWrite b o [v]

/-- The buffer of section 2.2. -/
def readBuf : Bytes := [0x01, 0x02, 0x03, 0x04, 0x05, 0x06, 0x07, 0x08, 0xFE, 0xFF, 0x00, 0x80, 0x00, 0x00, 0x80, 0x3F]

/-- The buffer of section 2.4. -/
def bitsBuf : Bytes := [0x00, 0x00, 0xFC, 0x00]

/-- V1 of section 1. -/
def v1 : Bytes := [0x24, 0x00, 0x00, 0x34, 0x44, 0x33, 0x22, 0x11] ++ zeroBytes 24 ++ [0x02, 0x00, 0x00, 0x00]

/-- V2 of section 2.7. -/
def v2 : Bytes :=
  [0x2A, 0x00, 0x00, 0x14, 0x44, 0x33, 0x22, 0x11, 0xD0, 0x73, 0xD5, 0x01, 0x02, 0x03, 0, 0, 0, 0, 0, 0, 0, 0, 0x02, 0x07]
    ++ zeroBytes 8 ++ [0x15, 0x00, 0x00, 0x00, 0xFF, 0xFF, 0xE8, 0x03, 0x00, 0x00]

/-- The header of S1. -/
def hdr1 : Header :=
  { Header.zero with size := 36, protocol := 1024, addressable := 1, tagged := 1, source := 0x11223344, messageType := 2 }

/-- The header of the "PARSE V2" row of section 2.7. -/
def hdr2 : Header :=
  { Header.zero with size := 42, protocol := 1024, addressable := 1, source := 0x11223344,
                     target := #v[0xD0, 0x73, 0xD5, 0x01, 0x02, 0x03, 0, 0], ackRequired := 1, sequence := 7, messageType := 21 }

/-- The record of S2. -/
def setPower : Payload := ⟨21, [(.level, .u16 65535), (.duration, .u32 1000)]⟩

/-- The bytes of S2. -/
def setPowerBytes : Bytes := [0xFF, 0xFF, 0xE8, 0x03, 0x00, 0x00]

/-- A colour of section 2.6. -/
def colour : Hsbk := ⟨0x5555, 0xFFFF, 0x8000, 3500⟩

/-! ### Reset and well-formedness -/

/-- R40, R310. -/
theorem test_reset_outputs : State.reset.out = {} := by decide

theorem test_reset_memory_wf : Memory.wf State.reset.ibuf = true ∧ Memory.wf State.reset.data = true := by decide

/-- R147: each check refuses a term that breaks it alone. -/
theorem test_wf_refuses_width_zero : (Instr.rdBits 0 0 0).wf 16 = false ∧ (Instr.wrBits 0 0 0).wf 16 = false := by decide

theorem test_wf_refuses_width_seventeen : (Instr.rdBits 0 0 17).wf 16 = false ∧ (Instr.wrBits 0 0 17).wf 16 = false := by decide

theorem test_wf_refuses_field_past_container : (Instr.rdBits 0 9 8).wf 16 = false ∧ (Instr.wrBits 0 9 8).wf 16 = false := by decide

theorem test_wf_accepts_legal_fields : (Instr.rdBits 0 15 1).wf 16 = true ∧ (Instr.wrBits 0 0 16).wf 16 = true := by decide

/-- R9, R62: at `OFF_BITS = 8` an offset, a count or a message type of 256 has no field; 255 has one. -/
theorem test_wf_refuses_operand_past_off_bits :
    (Instr.rdU8 256).wf 8 = false ∧ (Instr.rdBytes 0 256).wf 8 = false ∧ (Instr.lookup 256).wf 8 = false := by decide

theorem test_wf_accepts_operand_within_off_bits :
    (Instr.rdBytes 255 255).wf 8 = true ∧ (Instr.rdU8 256).wf 9 = true := by decide

/-! ### Decoding -/

/-- A word for each operation, its fields written out by R90, R92, R94, R95: `AUX`, `OFF`, `BITW`, `BITOFF` and `OP` in this order,
unused fields all ones, reserved fields 0. -/
def commandWords : List (BitVec 64 × Instr) :=
  [(0xFFFF#16 ++ 0x1234#16 ++ 0b000000000000000#15 ++ 0b11111#5 ++ 0b1111#4 ++ 0b000#3 ++ 0b00000#5, .rdU8 0x1234),
    (0xFFFF#16 ++ 0x1234#16 ++ 0b000000000000000#15 ++ 0b11111#5 ++ 0b1111#4 ++ 0b000#3 ++ 0b00001#5, .rdU16 0x1234),
    (0xFFFF#16 ++ 0x1234#16 ++ 0b000000000000000#15 ++ 0b11111#5 ++ 0b1111#4 ++ 0b000#3 ++ 0b00010#5, .rdU32 0x1234),
    (0xFFFF#16 ++ 0x1234#16 ++ 0b000000000000000#15 ++ 0b11111#5 ++ 0b1111#4 ++ 0b000#3 ++ 0b00011#5, .rdU64 0x1234),
    (0xFFFF#16 ++ 0x1234#16 ++ 0b000000000000000#15 ++ 0b11111#5 ++ 0b1111#4 ++ 0b000#3 ++ 0b00100#5, .rdI16 0x1234),
    (0xFFFF#16 ++ 0x1234#16 ++ 0b000000000000000#15 ++ 0b11111#5 ++ 0b1111#4 ++ 0b000#3 ++ 0b00101#5, .rdF32 0x1234),
    (0x5678#16 ++ 0x1234#16 ++ 0b000000000000000#15 ++ 0b11111#5 ++ 0b1111#4 ++ 0b000#3 ++ 0b00110#5, .rdBytes 0x1234 0x5678),
    (0xFFFF#16 ++ 0x1234#16 ++ 0b000000000000000#15 ++ 0b00011#5 ++ 0b1101#4 ++ 0b000#3 ++ 0b00111#5, .rdBits 0x1234 0b1101 0b00011),
    (0xFFFF#16 ++ 0x1234#16 ++ 0b000000000000000#15 ++ 0b11111#5 ++ 0b1111#4 ++ 0b000#3 ++ 0b01000#5, .wrU8 0x1234),
    (0xFFFF#16 ++ 0x1234#16 ++ 0b000000000000000#15 ++ 0b11111#5 ++ 0b1111#4 ++ 0b000#3 ++ 0b01001#5, .wrU16 0x1234),
    (0xFFFF#16 ++ 0x1234#16 ++ 0b000000000000000#15 ++ 0b11111#5 ++ 0b1111#4 ++ 0b000#3 ++ 0b01010#5, .wrU32 0x1234),
    (0xFFFF#16 ++ 0x1234#16 ++ 0b000000000000000#15 ++ 0b11111#5 ++ 0b1111#4 ++ 0b000#3 ++ 0b01011#5, .wrU64 0x1234),
    (0xFFFF#16 ++ 0x1234#16 ++ 0b000000000000000#15 ++ 0b11111#5 ++ 0b1111#4 ++ 0b000#3 ++ 0b01100#5, .wrI16 0x1234),
    (0xFFFF#16 ++ 0x1234#16 ++ 0b000000000000000#15 ++ 0b11111#5 ++ 0b1111#4 ++ 0b000#3 ++ 0b01101#5, .wrF32 0x1234),
    (0x5678#16 ++ 0x1234#16 ++ 0b000000000000000#15 ++ 0b11111#5 ++ 0b1111#4 ++ 0b000#3 ++ 0b01110#5, .wrBytes 0x1234 0x5678),
    (0xFFFF#16 ++ 0x1234#16 ++ 0b000000000000000#15 ++ 0b00011#5 ++ 0b1101#4 ++ 0b000#3 ++ 0b01111#5, .wrBits 0x1234 0b1101 0b00011),
    (0xFFFF#16 ++ 0xFFFF#16 ++ 0b000000000000000#15 ++ 0b11111#5 ++ 0b1111#4 ++ 0b000#3 ++ 0b10000#5, .encHdr),
    (0xFFFF#16 ++ 0xFFFF#16 ++ 0b000000000000000#15 ++ 0b11111#5 ++ 0b1111#4 ++ 0b000#3 ++ 0b10001#5, .decHdr),
    (0x5678#16 ++ 0xFFFF#16 ++ 0b000000000000000#15 ++ 0b11111#5 ++ 0b1111#4 ++ 0b000#3 ++ 0b10010#5, .lookup 0x5678),
    (0xFFFF#16 ++ 0xFFFF#16 ++ 0b000000000000000#15 ++ 0b11111#5 ++ 0b1111#4 ++ 0b000#3 ++ 0b10011#5, .encPld),
    (0x5678#16 ++ 0xFFFF#16 ++ 0b000000000000000#15 ++ 0b11111#5 ++ 0b1111#4 ++ 0b000#3 ++ 0b10100#5, .decPld 0x5678),
    (0xFFFF#16 ++ 0xFFFF#16 ++ 0b000000000000000#15 ++ 0b11111#5 ++ 0b1111#4 ++ 0b000#3 ++ 0b10101#5, .assemble),
    (0xFFFF#16 ++ 0xFFFF#16 ++ 0b000000000000000#15 ++ 0b11111#5 ++ 0b1111#4 ++ 0b000#3 ++ 0b10110#5, .parse)]

theorem test_decode_command_words : ∀ x ∈ commandWords, decode Config.offBits (.command x.1) = .ok x.2 := by decide

/-- The bits of the word of section 2.1: PARSE, and its three neighbours that are refused (R91, R93). -/
theorem test_decode_refused_words :
    [0x36#64, 0x20016#64, 0x17#64, 0x1F#64].map (fun w => decode Config.offBits (.command w))
      = [.error .reservedBits, .error .reservedBits, .error .unassignedOp, .error .unassignedOp] := by decide

/-- R9, R62, R95: the word of RD_BYTES with 0x5678 and 0x1234 at the places of `AUX` and `OFF`, for a block with `OFF_BITS` 8, 12
and 16: the fields have that many bits (log 4 for where they lie). -/
theorem test_decode_narrow_fields :
    [8, 12, 16].map (fun n => decode n (.command (0x5678#16 ++ 0x1234#16 ++ 0x00000006#32)))
      = [.ok (.rdBytes 0x34 0x78), .ok (.rdBytes 0x234 0x678), .ok (.rdBytes 0x1234 0x5678)] := by decide

/-- The code of each message type, from R107, in 16 bits. -/
def messageWords : List (BitVec 16 × Instr) :=
  [(0x0002, .getService), (0x0003, .stateService), (0x000C, .getHostInfo), (0x000D, .stateHostInfo),
    (0x000E, .getHostFirmware), (0x000F, .stateHostFirmware), (0x0010, .getWifiInfo), (0x0011, .stateWifiInfo),
    (0x0012, .getWifiFirmware), (0x0013, .stateWifiFirmware), (0x0014, .getPower), (0x0015, .setPower),
    (0x0016, .statePower), (0x0017, .getLabel), (0x0018, .setLabel), (0x0019, .stateLabel), (0x0020, .getVersion),
    (0x0021, .stateVersion), (0x0022, .getInfo), (0x0023, .stateInfo), (0x002D, .acknowledgement),
    (0x0030, .getLocation), (0x0031, .setLocation), (0x0032, .stateLocation), (0x0033, .getGroup),
    (0x0034, .setGroup), (0x0035, .stateGroup), (0x0036, .getUnknown), (0x0037, .setUnknown),
    (0x0038, .stateUnknown), (0x003A, .echoRequest), (0x003B, .echoResponse), (0x0065, .lightGet),
    (0x0066, .lightSetColor), (0x0067, .lightSetWaveform), (0x006B, .lightState), (0x0074, .lightGetPower),
    (0x0075, .lightSetPower), (0x0076, .lightStatePower), (0x0077, .lightSetWaveformOptional),
    (0x0078, .lightGetInfrared), (0x0079, .lightStateInfrared), (0x007A, .lightSetInfrared)]

theorem test_decode_message_words : ∀ x ∈ messageWords, decode Config.offBits (.messageType x.1) = .ok x.2 := by decide

theorem test_decode_unregistered_words :
    [0, 1, 4, 46, 57, 100, 9999, 65535].map (fun w => decode Config.offBits (.messageType w)) =
      List.replicate 8 (.error .unregisteredType) := by decide

/-- The widths of the table's rows: 32 bits for a command word, 16 for a message type, 24 for STATE_WIFI_FIRMWARE. -/
theorem test_decode_table_words :
    decodeTableWord 32 0x16 = some .parse ∧ decodeTableWord 32 0x12 = some (.lookup 0) ∧
    decodeTableWord 16 21 = some .setPower ∧ decodeTableWord 24 19 = some .stateWifiFirmware ∧
    decodeTableWord 32 0x17 = none := by decide

theorem test_fetch_runs_the_placed_word :
    (State.reset.withFetchWord 32 0x11).fetchWord = .command 0x11 ∧
    (State.reset.withFetchWord 16 107).fetchWord = .messageType 107 := by decide

/-- Section 2.1: status 9 for the refused words (R284), 5 for an unregistered message type (R108). -/
theorem test_step_refused_words :
    [withCmd 0x36, withCmd 0x1F, withMsg 57].map (fun s => outOf (step s))
      = [some (Outputs.error .illegalOperation), some (Outputs.error .illegalOperation),
        some (Outputs.error .unknownMessageType)] := by decide

/-! ### Fixed-width reads (section 2.2) -/

theorem test_rdU8_last : outOf (exec (.rdU8 15) (withBuf readBuf)) = some (Outputs.okRval 0x3F) := by decide

theorem test_rdU8_past : outOf (exec (.rdU8 16) (withBuf readBuf)) = some (Outputs.error .outOfBounds) := by decide

theorem test_rdU16_odd : outOf (exec (.rdU16 1) (withBuf readBuf)) = some (Outputs.okRval 0x0302) := by decide

theorem test_rdU16_unsigned : outOf (exec (.rdU16 8) (withBuf readBuf)) = some (Outputs.okRval 0xFFFE) := by decide

theorem test_rdU32_first : outOf (exec (.rdU32 0) (withBuf readBuf)) = some (Outputs.okRval 0x04030201) := by decide

theorem test_rdU32_past : outOf (exec (.rdU32 13) (withBuf readBuf)) = some (Outputs.error .outOfBounds) := by decide

theorem test_rdU64_last :
    outOf (exec (.rdU64 8) (withBuf readBuf)) =
      some (Outputs.okRval 0x3F8000008000FFFE) := by decide

theorem test_rdU64_past : outOf (exec (.rdU64 9) (withBuf readBuf)) = some (Outputs.error .outOfBounds) := by decide

theorem test_rdI16_negative :
    outOf (exec (.rdI16 8) (withBuf readBuf)) =
      some (Outputs.okRval 0xFFFFFFFFFFFFFFFE) := by decide

theorem test_rdI16_lowest :
    outOf (exec (.rdI16 10) (withBuf readBuf)) =
      some (Outputs.okRval 0xFFFFFFFFFFFF8000) := by decide

theorem test_rdF32_one : outOf (exec (.rdF32 12) (withBuf readBuf)) = some (Outputs.okRval 0x3F800000) := by decide

theorem test_rdF32_empty : outOf (exec (.rdF32 0) (withBuf [])) = some (Outputs.error .outOfBounds) := by decide

theorem test_rdBytes_last :
    outOf (exec (.rdBytes 14 2) (withBuf readBuf)) =
      some (Outputs.okRdata [0x80, 0x3F]) := by decide

theorem test_rdBytes_none_past :
    outOf (exec (.rdBytes 17 0) (withBuf readBuf)) =
      some (Outputs.error .outOfBounds) := by decide

/-! ### Fixed-width writes (section 2.3) -/

theorem test_wrU8_last :
    outOf (exec (.wrU8 7) (withVal (zeroBytes 8) 0x1FF)) =
      some (Outputs.okObuf [0x00, 0x00, 0x00, 0x00, 0x00, 0x00, 0x00, 0xFF]) := by decide

theorem test_wrU8_past :
    outOf (exec (.wrU8 8) (withVal (zeroBytes 8) 1)) =
      some (Outputs.error .outOfBounds) := by decide

theorem test_wrU16_truncates :
    outOf (exec (.wrU16 0) (withVal (zeroBytes 8) 65536)) =
      some (Outputs.okObuf (zeroBytes 8)) := by decide

theorem test_wrU16_past :
    outOf (exec (.wrU16 7) (withVal (zeroBytes 8) 1)) =
      some (Outputs.error .outOfBounds) := by decide

theorem test_wrU32_odd :
    outOf (exec (.wrU32 1) (withVal (zeroBytes 8) 1000)) =
      some (Outputs.okObuf [0x00, 0xE8, 0x03, 0x00, 0x00, 0x00, 0x00, 0x00]) := by decide

theorem test_wrU32_past :
    outOf (exec (.wrU32 5) (withVal (zeroBytes 8) 1)) =
      some (Outputs.error .outOfBounds) := by decide

theorem test_wrU64_order :
    outOf (exec (.wrU64 0) (withVal (zeroBytes 8) 0x0102030405060708)) =
      some (Outputs.okObuf [0x08, 0x07, 0x06, 0x05, 0x04, 0x03, 0x02, 0x01]) := by decide

theorem test_wrU64_past :
    outOf (exec (.wrU64 1) (withVal (zeroBytes 8) 0)) =
      some (Outputs.error .outOfBounds) := by decide

theorem test_wrI16_lowest :
    outOf (exec (.wrI16 0) (withVal (zeroBytes 8) (BitVec.ofInt 64 (-32768)))) =
      some (Outputs.okObuf [0x00, 0x80, 0x00, 0x00, 0x00, 0x00, 0x00, 0x00]) := by decide

theorem test_wrI16_truncates :
    outOf (exec (.wrI16 0) (withVal (zeroBytes 8) 40000)) =
      some (Outputs.okObuf [0x40, 0x9C, 0x00, 0x00, 0x00, 0x00, 0x00, 0x00]) := by decide

theorem test_wrF32_nan :
    outOf (exec (.wrF32 4) (withVal (zeroBytes 8) 0x7FC00001)) =
      some (Outputs.okObuf [0x00, 0x00, 0x00, 0x00, 0x01, 0x00, 0xC0, 0x7F]) := by decide

theorem test_wrBytes_end : outOf (exec (.wrBytes 6 2) { withBuf (zeroBytes 8) with data := [0xAA, 0xBB] }) =
    some (Outputs.okObuf [0, 0, 0, 0, 0, 0, 0xAA, 0xBB]) := by decide

theorem test_wrBytes_short_data : outOf (exec (.wrBytes 0 2) { withBuf (zeroBytes 8) with data := [0xAA] }) =
    some (Outputs.error .illegalOperation) := by decide

/-! ### Bit-fields (section 2.4) -/

theorem test_wrBits_keeps_reserved :
    outOf (exec (.wrBits 2 1 1) (withVal bitsBuf 1)) =
      some (Outputs.okObuf [0x00, 0x00, 0xFE, 0x00]) := by decide

theorem test_wrBits_masks :
    outOf (exec (.wrBits 0 13 1) (withVal bitsBuf 3)) =
      some (Outputs.okObuf [0x00, 0x20, 0xFC, 0x00]) := by decide

theorem test_rdBits_across :
    outOf (exec (.rdBits 1 7 2) (withBuf [0x00, 0x80, 0x01, 0x00])) =
      some (Outputs.okRval 3) := by decide

theorem test_rdBits_past :
    outOf (exec (.rdBits 3 4 8) (withBuf bitsBuf)) =
      some (Outputs.error .outOfBounds) := by decide

/-! ### The header (sections 1 and 2.5) -/

/-- S1. -/
theorem test_encHdr : outOf (exec .encHdr { State.reset with hdr := hdr1 }) = some (Outputs.okObuf v1) := by decide

/-- Section 2.5: no validation on encode. -/
theorem test_encHdr_unvalidated : outOf (exec .encHdr { State.reset with hdr := { Header.zero with origin := 3 } }) =
    some (Outputs.okObuf ([0, 0, 0, 0xC0] ++ zeroBytes 32)) := by decide

theorem test_decHdr : outOf (exec .decHdr (withBuf v1)) = some (Outputs.okOhdr hdr1) := by decide

/-- Section 2.5: the origin before the protocol, the protocol before the size. -/
theorem test_decHdr_order :
    [poke (poke v1 2 0xFF) 3 0x53, poke (poke (poke v1 0 0) 2 0xFF) 3 0x13, poke v1 0 0x81].map
        (fun b => outOf (exec .decHdr (withBuf b))) =
      [some (Outputs.error .malformedHeader), some (Outputs.error .unsupportedProtocol),
        some (Outputs.error .invalidSize)] := by decide

/-! ### The registry and the payloads (sections 1 and 2.6) -/

theorem test_lookup : [2, 21, 107, 58, 54].map (fun mt => outOf (exec (.lookup mt) State.reset)) =
    [some (Outputs.okOlen 0), some (Outputs.okOlen 6), some (Outputs.okOlen 52), some (Outputs.okOlen 64),
      some (Outputs.okOlen 0)] := by decide

theorem test_lookup_unregistered :
    [0, 1, 4, 46, 57, 100, 9999, 65535].map (fun mt => outOf (exec (.lookup mt) State.reset)) =
      List.replicate 8 (some (Outputs.error .unknownMessageType)) := by decide

/-- S2. -/
theorem test_encPld : outOf (exec .encPld { State.reset with pld := setPower }) =
    some (Outputs.okObuf setPowerBytes) := by decide

theorem test_encPld_waveform : outOf (exec .encPld (withPld 103
      [(.transient, .u8 1), (.color, .hsbk colour), (.period, .u32 1000), (.cycles, .f32 0x3F800000),
        (.skewRatio, .i16 0x8000), (.waveform, .u8 1)])) =
    some (Outputs.okObuf [0x00, 0x01, 0x55, 0x55, 0xFF, 0xFF, 0x00, 0x80, 0xAC, 0x0D, 0xE8, 0x03, 0x00, 0x00, 0x00, 0x00,
      0x80, 0x3F, 0x00, 0x80, 0x01]) := by decide

theorem test_decPld_trailing : outOf (exec (.decPld 21) (withBuf (setPowerBytes ++ [0xAA]))) =
    some (Outputs.okOpld setPower) := by decide

theorem test_decPld_reserved_ignored :
    outOf (exec (.decPld 13) (withBuf [0, 0, 0x80, 0x3F, 1, 0, 0, 0, 2, 0, 0, 0, 0xAB, 0xCD])) =
      some (Outputs.okOpld ⟨13, [(.signal, .f32 0x3F800000), (.tx, .u32 1), (.rx, .u32 2)]⟩) := by decide

/-! ### The message-type rows (lengths from R196 to R238, images from section 2.6) -/

/-- The registered length of each message type (R196 to R238). -/
def messageLengths : List (Instr × Nat) :=
  [(.getService, 0), (.stateService, 5), (.getHostInfo, 0), (.stateHostInfo, 14), (.getHostFirmware, 0),
    (.stateHostFirmware, 20), (.getWifiInfo, 0), (.stateWifiInfo, 14), (.getWifiFirmware, 0),
    (.stateWifiFirmware, 20), (.getPower, 0), (.setPower, 6), (.statePower, 2), (.getLabel, 0), (.setLabel, 32),
    (.stateLabel, 32), (.getVersion, 0), (.stateVersion, 12), (.getInfo, 0), (.stateInfo, 24), (.acknowledgement, 0),
    (.getLocation, 0), (.setLocation, 56), (.stateLocation, 56), (.getGroup, 0), (.setGroup, 56), (.stateGroup, 56),
    (.getUnknown, 0), (.setUnknown, 56), (.stateUnknown, 56), (.echoRequest, 64), (.echoResponse, 64),
    (.lightGet, 0), (.lightSetColor, 13), (.lightSetWaveform, 21), (.lightState, 52), (.lightGetPower, 0),
    (.lightSetPower, 6), (.lightStatePower, 2), (.lightSetWaveformOptional, 25), (.lightGetInfrared, 0),
    (.lightStateInfrared, 2), (.lightSetInfrared, 2)]

theorem test_rows_lengths : ∀ x ∈ messageLengths, outOf (exec x.1 State.reset) = some (Outputs.okOlen x.2) := by decide

theorem test_row_setPower_encodes : outOf (exec .setPower { State.reset with contract := .encode, pld := setPower }) =
    some (Outputs.okObuf setPowerBytes) := by decide

theorem test_row_setPower_decodes :
    outOf (exec .setPower { withBuf setPowerBytes with contract := .decode }) = some (Outputs.okOpld setPower) := by decide

theorem test_row_other_tag : outOf (exec .lightSetPower { State.reset with contract := .encode, pld := setPower }) =
    some (Outputs.error .illegalOperation) := by decide

/-! ### The packet (section 2.7) -/

/-- The size and the type of `HDR` are ignored. -/
theorem test_assemble :
    outOf (exec .assemble { State.reset with hdr := { hdr2 with size := 999, messageType := 7 }, pld := setPower }) =
      some (Outputs.okObuf v2) := by decide

theorem test_assemble_empty : outOf (exec .assemble { withPld 2 [] with hdr := { hdr1 with size := 0, messageType := 0 } }) =
    some (Outputs.okObuf v1) := by decide

theorem test_parse : outOf (exec .parse (withBuf v2)) = some (Outputs.okPacket hdr2 setPower) := by decide

/-- The errors of section 2.7: 35 bytes, 41 bytes, size 36, type 9999 in 36 bytes. -/
theorem test_parse_errors :
    [v1.take 35, v2.take 41, poke v2 0 0x24, (poke (poke v2 32 0x0F) 33 0x27).take 36].map
        (fun b => outOf (exec .parse (withBuf b))) =
      [some (Outputs.error .malformedHeader), some (Outputs.error .truncatedPacket),
        some (Outputs.error .payloadLengthMismatch), some (Outputs.error .unknownMessageType)] := by decide

/-! ### The host's program lines (section 3) -/

/-- The command words of P1 and P2. -/
theorem test_pseudo_words :
    encode (pseudoWrite .protocol) = .command 0x000000020000C00F ∧
    encode (pseudoWrite .addressable) = .command 0x0000000200001C0F ∧
    encode (pseudoWrite .ackReq) = .command 0x000000160000110F ∧ encode (pseudoWrite .resReq) = .command 0x000000160000100F ∧
    encode (pseudoRead .tagged) = .command 0x0000000200001D07 ∧
    encode (pseudoRead .protocol) = .command 0x000000020000C007 := by decide

/-- The buffer variable of a host, and whether it goes on, after one line. -/
def afterLine (b : Bytes) (l : Line) : Option (Bytes × Option (BitVec 4)) :=
  match runLine ⟨State.reset, b⟩ l with
  | .next h => some (h.buffer, h.block.out.status)
  | .fault _ => none
  | .refused _ => none

/-- P2 line 8: the error leaves `B` as it was. -/
theorem test_line_error_keeps_buffer : afterLine v1 ⟨.rdU8 36, 0, [], Header.zero, ⟨0, []⟩⟩ = some (v1, some 1) := by decide

/-- P1 line 9. -/
theorem test_line_write_moves_buffer :
    afterLine (zeroBytes 42) ⟨.wrU16 36, 65535, [], Header.zero, ⟨0, []⟩⟩ =
      some (zeroBytes 36 ++ [0xFF, 0xFF, 0, 0, 0, 0], some 0) := by decide

/-! ### Witnesses of the statements' hypotheses -/

theorem test_witness_StepRunsTheDecodedInstruction :
    decode State.reset.offBits State.reset.fetchWord = .ok (.rdU8 0) ∧
    decode State.reset.offBits (.command 0x16) = .ok .parse ∧
    decode State.reset.offBits (.messageType 122) = .ok .lightSetInfrared ∧
    State.reset.offBits = Config.offBits ∧ decodeTableWord 16 2 = some .getService := by decide

/-- Operands at the largest value of an 8-bit field, and of a 16-bit one. -/
theorem test_witness_DecodeOfEncodeIsTheInstruction :
    (Instr.rdBytes 255 255).operandsFit 8 = true ∧ (Instr.rdBytes 65535 65535).operandsFit 16 = true := by decide

/-- A word whose places are all ones, and the two ends of the permitted widths. -/
theorem test_witness_OffsetAndAuxiliaryFieldsHaveOffBitsBits :
    decode 8 (.command 0xFFFFFFFF00000006) = .ok (.rdBytes 255 255) ∧
    Config.offBitsLegal 8 = true ∧ Config.offBitsLegal 16 = true ∧
    decode Config.offBits (.command 0x00FF00FF00000006) = .ok (.rdBytes 255 255) ∧
    (Instr.rdBytes 255 255).operandsFit 8 = true := by decide

/-- The lowest bit of `RSV0`, the highest of `RSV1`; two words that differ in every unused field of PARSE. -/
theorem test_witness_ReservedFieldsRaiseAndUnusedFieldsAreIgnored :
    ((withCmd 0x20).format = .command ∧ cmdRsv0 (withCmd 0x20).cmd ≠ 0) ∧
    ((withCmd 0x80000000).format = .command ∧ cmdRsv1 (withCmd 0x80000000).cmd ≠ 0) ∧
    ReservedZero 0x16 ∧ ReservedZero 0xFFFFFFFF0001FF16 ∧ SameUsedFields 0x16 0xFFFFFFFF0001FF16 := by
  unfold ReservedZero SameUsedFields; decide

theorem test_witness_UnassignedOperationCodesRaise :
    ((withCmd 0x17).format = .command ∧ ReservedZero (withCmd 0x17).cmd ∧ 0x17 ≤ (cmdOp (withCmd 0x17).cmd).toNat) ∧
    (ReservedZero (withCmd 0x1F).cmd ∧ 0x17 ≤ (cmdOp (withCmd 0x1F).cmd).toNat) ∧
    (ReservedZero 0x16 ∧ (cmdOp 0x16).toNat ≤ 0x16) := by unfold ReservedZero; decide

theorem test_witness_MessageTypeWordsSelectTheCatalog :
    (withMsg 57).format = .messageType ∧ (withMsg 57).msgType ∉ catalogCodes := by decide

/-- For each width the last offset that fits 16 bytes and the first that does not. -/
theorem test_witness_UnsignedReadsAreLittleEndian :
    ∀ x ∈ [((15 : BitVec 16), (16 : BitVec 16), 1), (14, 15, 2), (12, 13, 4), (8, 9, 8)],
      x.1.toNat + x.2.2 ≤ (withBuf readBuf).ibuf.length ∧ (withBuf readBuf).ibuf.length < x.2.1.toNat + x.2.2 := by decide

theorem test_witness_SignedReadSignExtends :
    (14 : BitVec 16).toNat + 2 ≤ (withBuf readBuf).ibuf.length ∧
    (withBuf readBuf).ibuf.length < (15 : BitVec 16).toNat + 2 := by decide

theorem test_witness_ByteArrayReadCopiesInOrder :
    (16 : BitVec 16).toNat + (0 : BitVec 16).toNat ≤ (withBuf readBuf).ibuf.length ∧
    (withBuf readBuf).ibuf.length < (17 : BitVec 16).toNat + (0 : BitVec 16).toNat := by decide

/-- For each width the last offset that fits 8 bytes and the first that does not. -/
theorem test_witness_ScalarWritesReplaceOnlyTheirBytes :
    ∀ x ∈ [((7 : BitVec 16), (8 : BitVec 16), 1), (6, 7, 2), (4, 5, 4), (0, 1, 8)],
      x.1.toNat + x.2.2 ≤ (withBuf (zeroBytes 8)).ibuf.length ∧
      (withBuf (zeroBytes 8)).ibuf.length < x.2.1.toNat + x.2.2 := by decide

/-- Data one byte short, out of bounds by one, and exactly in bounds. -/
theorem test_witness_ByteArrayWriteReplacesOnlyItsBytes :
    ({ withBuf (zeroBytes 8) with data := [1] } : State).data.length ≠ (2 : BitVec 16).toNat ∧
    (({ withBuf (zeroBytes 8) with data := [1, 2] } : State).data.length = (2 : BitVec 16).toNat ∧
      (withBuf (zeroBytes 8)).ibuf.length < (7 : BitVec 16).toNat + (2 : BitVec 16).toNat ∧
      (6 : BitVec 16).toNat + (2 : BitVec 16).toNat ≤ (withBuf (zeroBytes 8)).ibuf.length) := by decide

/-- Widths 0 and 17, a field one bit too long, and the legal extremes; a container that ends at the last byte and one past it. -/
theorem test_witness_BitFieldReadExtractsTheField :
    (¬ LegalField 0 0 ∧ ¬ LegalField 0 17 ∧ ¬ LegalField 9 8) ∧
    (LegalField 4 8 ∧ ¬ ContainerFits (withBuf bitsBuf).ibuf 3 4 8) ∧
    (LegalField 0 16 ∧ ContainerFits (withBuf bitsBuf).ibuf 2 0 16) ∧
    (LegalField 15 1 ∧ ContainerFits (withBuf bitsBuf).ibuf 2 15 1) := by unfold LegalField ContainerFits; decide

theorem test_witness_BitFieldWriteReplacesOnlyTheField :
    (¬ LegalField 0 0 ∧ ¬ LegalField 0 17 ∧ ¬ LegalField 9 8) ∧
    (LegalField 7 2 ∧ ¬ ContainerFits (withBuf bitsBuf).ibuf 3 7 2) ∧
    (LegalField 0 16 ∧ ContainerFits (withBuf bitsBuf).ibuf 2 0 16) ∧
    (LegalField 0 8 ∧ ContainerFits (withBuf bitsBuf).ibuf 3 0 8) := by unfold LegalField ContainerFits; decide

/-- Adjacent fields in one container, in both orders, and in containers that overlap. -/
theorem test_witness_BitFieldWritesComposeInAnyOrder :
    LegalField 0 12 ∧ LegalField 12 1 ∧ ContainerFits (withBuf bitsBuf).ibuf 2 0 12 ∧
    ContainerFits (withBuf bitsBuf).ibuf 2 12 1 ∧ FieldsDisjoint 2 0 12 2 12 1 ∧ FieldsDisjoint 2 12 1 2 0 12 ∧
    LegalField 7 9 ∧ ContainerFits (withBuf bitsBuf).ibuf 1 7 9 ∧ LegalField 0 7 ∧
    ContainerFits (withBuf bitsBuf).ibuf 1 0 7 ∧ FieldsDisjoint 1 7 9 1 0 7 := by
  unfold LegalField ContainerFits FieldsDisjoint; decide

/-- The largest value of each width at the last offset of eight bytes; the smallest i16 as well. -/
theorem test_witness_WriteThenReadReturnsTheValue :
    ((7 : BitVec 16).toNat + 1 ≤ (withVal (zeroBytes 8) 0xFF).ibuf.length ∧ (0xFF : BitVec 64).toNat < 2 ^ 8) ∧
    ((6 : BitVec 16).toNat + 2 ≤ (withVal (zeroBytes 8) 0xFFFF).ibuf.length ∧ (0xFFFF : BitVec 64).toNat < 2 ^ 16) ∧
    ((4 : BitVec 16).toNat + 4 ≤ (withVal (zeroBytes 8) 0xFFFFFFFF).ibuf.length ∧
      (0xFFFFFFFF : BitVec 64).toNat < 2 ^ 32) ∧
    ((0 : BitVec 16).toNat + 8 ≤ (withVal (zeroBytes 8) 0).ibuf.length) ∧
    (-32768 ≤ (0xFFFFFFFFFFFF8000 : BitVec 64).toInt ∧ (0xFFFFFFFFFFFF8000 : BitVec 64).toInt ≤ 32767) ∧
    (LegalField 15 1 ∧ ContainerFits (withVal (zeroBytes 8) 1).ibuf 6 15 1 ∧
      (1 : BitVec 64).toNat < 2 ^ (1 : BitVec 5).toNat) ∧
    (LegalField 0 16 ∧ ContainerFits (withVal (zeroBytes 8) 0xFFFF).ibuf 6 0 16 ∧
      (0xFFFF : BitVec 64).toNat < 2 ^ (16 : BitVec 5).toNat) := by unfold LegalField ContainerFits; decide

theorem test_witness_NarrowReadsSeeSlicesOfAWideWrite :
    (4 : BitVec 16).toNat + 4 ≤ (withVal (zeroBytes 8) 0x11223344).ibuf.length ∧
    (6 : BitVec 16).toNat = (4 : BitVec 16).toNat + 2 ∧ (7 : BitVec 16).toNat = (4 : BitVec 16).toNat + 3 := by decide

/-- 35 bytes; each origin but 0; a protocol one below 1024; sizes 35 and 129. -/
theorem test_witness_HeaderErrors :
    (withBuf (v1.take 35)).ibuf.length < 36 ∧
    (36 ≤ (withBuf (poke v1 3 0x44)).ibuf.length ∧ byteAt (poke v1 3 0x44) 3 / 64 ≠ 0 ∧ byteAt (poke v1 3 0xF4) 3 / 64 ≠ 0) ∧
    (OriginPasses (poke (poke v1 2 0xFF) 3 0x13) ∧
      byteAt (poke (poke v1 2 0xFF) 3 0x13) 2 + 256 * (byteAt (poke (poke v1 2 0xFF) 3 0x13) 3 % 16) ≠ 1024) ∧
    (ProtocolPasses (poke v1 0 35) ∧ leAt (poke v1 0 35) 0 2 < 36) ∧
    (ProtocolPasses (poke v1 0 129) ∧ 128 < leAt (poke v1 0 129) 0 2) := by unfold ProtocolPasses OriginPasses; decide

theorem test_witness_DecodeHeaderChecksThenReadsTheFields :
    HeaderPasses (withBuf v1).ibuf ∧ HeaderPasses (withBuf (poke v1 0 128)).ibuf := by
  unfold HeaderPasses ProtocolPasses OriginPasses; decide

/-- Sizes 36 and 128; a buffer that differs in every reserved bit and byte and is longer. -/
theorem test_witness_HeaderRoundTripIgnoresReservedBits :
    hdr1.valid = true ∧ ({ hdr1 with size := 128 } : Header).valid = true ∧
    (36 ≤ (withBuf v1).ibuf.length ∧ 36 ≤ (poke (poke (poke v1 22 0xFC) 34 0xFF) 35 0xFF ++ [0xAA]).length ∧
      (∀ k < 34, k ≠ 22 → byteAt (poke (poke (poke v1 22 0xFC) 34 0xFF) 35 0xFF ++ [0xAA]) k = byteAt (withBuf v1).ibuf k) ∧
      byteAt (poke (poke (poke v1 22 0xFC) 34 0xFF) 35 0xFF ++ [0xAA]) 22 % 4 = byteAt (withBuf v1).ibuf 22 % 4) := by decide

theorem test_witness_LookupGivesTheRegisteredLength :
    IsMap State.reset.registry ∧ (entryEchoResponse ∈ State.reset.registry ∧ entryEchoResponse.mtype = 59) ∧
    (∀ e ∈ State.reset.registry, e.mtype ≠ 65535) := by unfold IsMap; decide

theorem test_witness_UnregisteredTypesAreRefusedButNotByTheHeader :
    State.reset.registry.valid = true ∧ (57 : BitVec 16) ∉ catalogCodes ∧
    HeaderPasses (withBuf (poke (poke v1 32 0x0F) 33 0x27)).ibuf ∧
    leAt (withBuf (poke (poke v1 32 0x0F) 33 0x27)).ibuf 32 2 = (9999 : BitVec 16).toNat ∧
    (withBuf (poke (poke v1 32 0x0F) 33 0x27)).registry.valid = true ∧ (9999 : BitVec 16) ∉ catalogCodes := by
  unfold HeaderPasses ProtocolPasses OriginPasses; decide

/-- A record with another number of fields has another field set. -/
theorem otherFieldSet_of_length (layout : List Field) (fields : List (FieldName × Value))
    (h : (layout.filter fun f => !f.kind.isReserved).length ≠ fields.length) : OtherFieldSet layout fields :=
  fun _ hp hr => h (hr.length_eq.trans hp.length_eq)

/-- A record of one field that is not the layout's has another field set. -/
theorem otherFieldSet_singleton (layout : List Field) (x : FieldName × Value) (h : ¬ RecordOf layout [x]) :
    OtherFieldSet layout [x] := fun fs hp hr => h (by rwa [List.perm_singleton.1 hp] at hr)

/-- An unregistered tag; a record that lacks a field, one that has too many, one with a label of 31 bytes; a record of its layout. -/
theorem test_witness_EncodePayloadWritesTheLayout :
    State.reset.registry.valid = true ∧ (∀ e ∈ State.reset.registry, e.mtype ≠ (withPld 57 []).pld.mtype) ∧
    (entrySetPower ∈ State.reset.registry ∧ entrySetPower.mtype = (withPld 21 [(.level, .u16 1)]).pld.mtype ∧
      OtherFieldSet entrySetPower.layout (withPld 21 [(.level, .u16 1)]).pld.fields) ∧
    (entryGetService ∈ State.reset.registry ∧ entryGetService.mtype = (withPld 2 [(.level, .u16 1)]).pld.mtype ∧
      OtherFieldSet entryGetService.layout (withPld 2 [(.level, .u16 1)]).pld.fields) ∧
    (entrySetLabel ∈ State.reset.registry ∧ entrySetLabel.mtype = (withPld 24 []).pld.mtype ∧
      OtherFieldSet entrySetLabel.layout [(.label, .bytes (zeroBytes 31))]) ∧
    RecordOf entrySetPower.layout ({ State.reset with pld := setPower } : State).pld.fields :=
  ⟨by decide, by decide, ⟨by decide, by decide, otherFieldSet_of_length _ _ (by decide)⟩,
    ⟨by decide, by decide, otherFieldSet_of_length _ _ (by decide)⟩,
    ⟨by decide, by decide, otherFieldSet_singleton _ _ (by unfold RecordOf; decide)⟩, by unfold RecordOf; decide⟩

/-- One byte short of the length, and exactly the length. -/
theorem test_witness_DecodePayloadReadsTheLayout :
    State.reset.registry.valid = true ∧ (∀ e ∈ State.reset.registry, e.mtype ≠ (57 : BitVec 16)) ∧
    (entrySetPower ∈ State.reset.registry ∧ entrySetPower.mtype = 21 ∧
      (withBuf (setPowerBytes.take 5)).ibuf.length < entrySetPower.length ∧
      entrySetPower.length ≤ (withBuf setPowerBytes).ibuf.length) := by decide

/-- A record, and a payload of 14 bytes whose two reserved bytes are zero. -/
theorem test_witness_PayloadRoundTripUnderAnyRegistry :
    State.reset.registry.valid = true ∧ setPower.wf State.reset.registry = true ∧
    (entryStateHostInfo ∈ State.reset.registry ∧
      entryStateHostInfo.length ≤ (withBuf ([1, 2, 3, 4, 5, 6, 7, 8, 9, 10, 11, 12] ++ zeroBytes 2)).ibuf.length ∧
      ∀ f ∈ entryStateHostInfo.layout, f.kind.isReserved = true → ∀ k < f.kind.size,
        Memory.read (withBuf ([1, 2, 3, 4, 5, 6, 7, 8, 9, 10, 11, 12] ++ zeroBytes 2)).ibuf (f.offset + k) = some 0) := by decide

/-- The composite at the end of its buffer. -/
theorem test_witness_HsbkIsFourLittleEndianWords : 1 + 8 ≤ (zeroBytes 9).length := by decide

/-- A state that holds a record and, before more bytes, its image: the hypotheses of `CodesAs` for one type. -/
def codedState (mt : BitVec 16) (fields : List (FieldName × Value)) (image tail : Bytes) : State :=
  { State.reset with pld := ⟨mt, fields⟩, ibuf := image ++ tail }

/-- The hypotheses of `CodesAs`. -/
def Coded (s : State) (mt : BitVec 16) (fields : List (FieldName × Value)) (image tail : Bytes) : Prop :=
  s.registry = defaultRegistry ∧ s.pld = ⟨mt, fields⟩ ∧ s.ibuf = image ++ tail

theorem test_witness_EmptyDeviceRequestsCarryNoBytes :
    Coded (codedState 2 [] [] []) 2 [] [] [] ∧ Coded (codedState 23 [] [] [1]) 23 [] [] [1] := by
  unfold Coded; decide

theorem test_witness_EmptyLateTypesCarryNoBytes :
    Coded (codedState 32 [] [] []) 32 [] [] [] ∧ Coded (codedState 120 [] [] [1]) 120 [] [] [1] := by
  unfold Coded; decide

/-- Every field at its largest value; the membership hypotheses at both ends of their lists. -/
theorem test_witness_ServiceHostWifiPowerLayouts :
    Coded (codedState 3 [(.service, .u8 0xFF), (.port, .u32 0xFFFFFFFF)] (List.replicate 5 0xFF) [1])
      3 [(.service, .u8 0xFF), (.port, .u32 0xFFFFFFFF)] (List.replicate 5 0xFF) [1] ∧
    (13 : BitVec 16) ∈ ([13, 17] : List (BitVec 16)) ∧ (17 : BitVec 16) ∈ ([13, 17] : List (BitVec 16)) ∧
    (15 : BitVec 16) ∈ ([15, 19] : List (BitVec 16)) ∧ (19 : BitVec 16) ∈ ([15, 19] : List (BitVec 16)) ∧
    Coded (codedState 21 setPower.fields setPowerBytes []) 21 setPower.fields setPowerBytes [] := by
  unfold Coded; decide

theorem test_witness_LabelVersionInfoLocationGroupLayouts :
    (24 : BitVec 16) ∈ ([24, 25] : List (BitVec 16)) ∧ (25 : BitVec 16) ∈ ([24, 25] : List (BitVec 16)) ∧
    (List.replicate 32 (0xFF : Byte)).length = 32 ∧ (List.replicate 16 (0xFF : Byte)).length = 16 ∧
    ((49, .location) : BitVec 16 × FieldName) ∈ [(49, .location), (50, .location), (52, .group), (53, .group)] ∧
    ((53, .group) : BitVec 16 × FieldName) ∈ [(49, .location), (50, .location), (52, .group), (53, .group)] ∧
    Coded (codedState 24 [(.label, .bytes (List.replicate 32 0xFF))] (List.replicate 32 0xFF) [])
      24 [(.label, .bytes (List.replicate 32 0xFF))] (List.replicate 32 0xFF) [] := by unfold Coded; decide

theorem test_witness_UnknownAndEchoLayouts :
    (55 : BitVec 16) ∈ ([55, 56] : List (BitVec 16)) ∧ (59 : BitVec 16) ∈ ([58, 59] : List (BitVec 16)) ∧
    (List.replicate 56 (0xFF : Byte)).length = 56 ∧ (List.replicate 64 (0xFF : Byte)).length = 64 ∧
    Coded (codedState 55 [(.data, .bytes (List.replicate 56 0xFF))] (List.replicate 56 0xFF) [0])
      55 [(.data, .bytes (List.replicate 56 0xFF))] (List.replicate 56 0xFF) [0] := by unfold Coded; decide

theorem test_witness_LightLayouts :
    Coded (codedState 102 [(.color, .hsbk colour), (.duration, .u32 1024)]
        ([0] ++ valueImage (.hsbk colour) ++ leBytes 4 1024) [0xAA])
      102 [(.color, .hsbk colour), (.duration, .u32 1024)] ([0] ++ valueImage (.hsbk colour) ++ leBytes 4 1024) [0xAA] ∧
    (List.replicate 32 (0xFF : Byte)).length = 32 ∧
    (121 : BitVec 16) ∈ ([121, 122] : List (BitVec 16)) ∧ (122 : BitVec 16) ∈ ([121, 122] : List (BitVec 16)) := by
  unfold Coded; decide

theorem test_witness_DeviceRowsAnswerTheirLength :
    State.reset.registry = defaultRegistry ∧ State.reset.contract = .lookup ∧
    (Instr.echoResponse, 64) ∈ [(Instr.getService, 0), (Instr.echoResponse, 64)] := by decide

theorem test_witness_LightRowsAnswerTheirLength :
    State.reset.registry = defaultRegistry ∧ State.reset.contract = .lookup ∧
    (Instr.lightSetInfrared, 2) ∈ [(Instr.lightGet, 0), (Instr.lightSetInfrared, 2)] := by decide

/-- One state for each clause; the decode clauses one byte short and at the exact length. -/
theorem test_witness_MessageRowsRunTheirContract :
    messageCode .setPower = some 21 ∧ State.reset.registry.valid = true ∧ entrySetPower ∈ State.reset.registry ∧
    entrySetPower.mtype = 21 ∧ State.reset.contract = .lookup ∧
    (({ State.reset with contract := .encode, pld := setPower } : State).contract = .encode ∧
      ({ State.reset with contract := .encode, pld := setPower } : State).pld.mtype = 21 ∧
      RecordOf entrySetPower.layout setPower.fields) ∧
    ((withPld 117 setPower.fields).pld.mtype ≠ 21 ∧ ¬ RecordOf entrySetPower.layout (withPld 21 []).pld.fields) ∧
    (({ withBuf (setPowerBytes.take 5) with contract := .decode } : State).contract = .decode ∧
      (withBuf (setPowerBytes.take 5)).ibuf.length < entrySetPower.length ∧
      entrySetPower.length ≤ (withBuf setPowerBytes).ibuf.length) := by simp only [RecordOf]; decide

theorem test_witness_MessageRowsAgreeWithTheCommands :
    messageCode .lightSetInfrared = some 122 ∧ State.reset.contract = .lookup ∧
    ({ State.reset with contract := .decode } : State).contract = .decode ∧
    ({ withPld 122 [] with contract := .encode } : State).contract = .encode ∧
    ({ withPld 122 [] with contract := .encode } : State).pld.mtype = 122 := by decide

/-- A type with a payload of `n` bytes, outside the default registry. -/
def wideEntry (n : Nat) : Entry := ⟨2, n, [⟨0, .data, .bytes n⟩]⟩

/-- The error clauses under the default registry; totals of 129 and of 128 bytes under a registry of one type. -/
theorem test_witness_AssembleComputesSizeAndType :
    IsMap State.reset.registry ∧ State.reset.registry.valid = true ∧
    (∀ e ∈ State.reset.registry, e.mtype ≠ (withPld 57 []).pld.mtype) ∧
    (entrySetPower ∈ State.reset.registry ∧ entrySetPower.mtype = (withPld 21 []).pld.mtype ∧
      OtherFieldSet entrySetPower.layout (withPld 21 []).pld.fields) ∧
    (IsMap [wideEntry 93] ∧ wideEntry 93 ∈ [wideEntry 93] ∧ (wideEntry 93).mtype = 2 ∧
      RecordOf (wideEntry 93).layout [(.data, .bytes (zeroBytes 93))] ∧ 128 < 36 + (wideEntry 93).length) ∧
    (IsMap [wideEntry 92] ∧ RecordOf (wideEntry 92).layout [(.data, .bytes (zeroBytes 92))] ∧
      36 + (wideEntry 92).length ≤ 128) :=
  ⟨by unfold IsMap; decide, by decide, by decide, ⟨by decide, by decide, otherFieldSet_of_length _ _ (by decide)⟩,
    by simp only [RecordOf, IsMap]; decide, by simp only [RecordOf, IsMap]; decide⟩

/-- An unregistered type; for SET_POWER 41 bytes, the size 36 in 42 bytes, and V2 itself; PARSE's header errors are those of
`test_witness_HeaderErrors`. -/
theorem test_witness_ParseReportsTheFirstErrorOrThePacket :
    IsMap State.reset.registry ∧
    (HeaderPasses (poke v1 33 0x27) ∧ ∀ e ∈ State.reset.registry, e.mtype.toNat ≠ leAt (poke v1 33 0x27) 32 2) ∧
    (HeaderPasses v2 ∧ entrySetPower ∈ State.reset.registry ∧ entrySetPower.mtype.toNat = leAt v2 32 2 ∧
      36 + entrySetPower.length ≤ v2.length ∧ leAt v2 0 2 = 36 + entrySetPower.length) ∧
    (HeaderPasses (v2.take 41) ∧ entrySetPower.mtype.toNat = leAt (v2.take 41) 32 2 ∧
      (v2.take 41).length < 36 + entrySetPower.length) ∧
    (HeaderPasses (poke v2 0 0x24) ∧ entrySetPower.mtype.toNat = leAt (poke v2 0 0x24) 32 2 ∧
      36 + entrySetPower.length ≤ (poke v2 0 0x24).length ∧ leAt (poke v2 0 0x24) 0 2 ≠ 36 + entrySetPower.length) := by
  unfold HeaderPasses ProtocolPasses OriginPasses IsMap; decide

theorem test_witness_ParseIgnoresBytesPastThePacket :
    (withBuf v2).registry.valid = true ∧ entrySetPower ∈ (withBuf v2).registry ∧
    leAt (withBuf v2).ibuf 32 2 = entrySetPower.mtype.toNat ∧ 36 + entrySetPower.length ≤ (withBuf v2).ibuf.length := by decide

theorem test_witness_UnknownTypeConsumesNoPayloadBytes :
    HeaderPasses (withBuf (poke v1 33 0x27)).ibuf ∧
    ∀ e ∈ State.reset.registry, e.mtype.toNat ≠ leAt (withBuf (poke v1 33 0x27)).ibuf 32 2 := by
  unfold HeaderPasses ProtocolPasses OriginPasses; decide

/-- A header as PARSE wants it, one that needs its size and type computed, and one that fails each check. -/
theorem test_witness_AssembledPacketsParseBack :
    State.reset.registry.valid = true ∧ entrySetPower ∈ State.reset.registry ∧ entrySetPower.mtype = setPower.mtype ∧
    setPower.wf State.reset.registry = true ∧
    (hdr2.origin = 0 ∧ hdr2.protocol = 1024 ∧ hdr2.size.toNat = 36 + entrySetPower.length ∧
      hdr2.messageType = entrySetPower.mtype) ∧
    ({ hdr2 with origin := 3 } : Header).origin ≠ 0 ∧
    (({ hdr2 with protocol := 1023 } : Header).origin = 0 ∧ ({ hdr2 with protocol := 1023 } : Header).protocol ≠ 1024) := by
  decide

/-- A parse that succeeds, read off `outOf` since outcomes are not compared. -/
theorem test_witness_ParsedPacketsSatisfyTheInvariants :
    ∃ t : State, exec .parse (withBuf v2) = .next t ∧ t.out.status = some statusOk := ⟨_, rfl, by decide⟩

theorem test_witness_OperationsDriveExactlyTheirPorts :
    (withCmd 0x16).format = .command ∧ ReservedZero (withCmd 0x16).cmd ∧ (cmdOp (withCmd 0x16).cmd).toNat ≤ 0x16 := by
  unfold ReservedZero; decide

/-- PARSE on two states that differ in every unused field of the word and every port it does not read. -/
theorem test_witness_OperationsReadOnlyTheirFieldsAndPorts :
    (withCmd 0x16).format = .command ∧ ReservedZero (withCmd 0x16).cmd ∧
    ({ withCmd 0xFFFFFFFF0001FF16 with val := 1, data := [1], hdr := hdr1, pld := setPower } : State).format = .command ∧
    ReservedZero (withCmd 0xFFFFFFFF0001FF16).cmd ∧ (withCmd 0x16).offBits = (withCmd 0xFFFFFFFF0001FF16).offBits ∧
    SameUsedFields (withCmd 0x16).cmd (withCmd 0xFFFFFFFF0001FF16).cmd ∧
    (withCmd 0x16).registry = (withCmd 0xFFFFFFFF0001FF16).registry ∧
    SameReadPorts (cmdOp (withCmd 0x16).cmd).toNat (withCmd 0x16)
      { withCmd 0xFFFFFFFF0001FF16 with val := 1, data := [1], hdr := hdr1, pld := setPower } := by
  unfold ReservedZero SameUsedFields SameReadPorts; decide

theorem test_witness_EveryStepKeepsTheInvariant :
    State.reset.inv = true ∧ ∃ t : State, step State.reset = .next t := ⟨by decide, _, rfl⟩

end Sys2Proof.Tests
end

/-! ## The parameter `OFF_BITS` (00_scope.md R9, 20_memory.md R62)

A block of any `OFF_BITS` decodes a command word as the default block does and then cuts the operands to its own fields
(`decode_command_eq_map_narrow`). The three clauses of O4 are read off that equation and the laws of `lowBits`. -/

namespace Sys2Proof

theorem lowBits_zero (n : Nat) : lowBits n 0 = 0 := lowBits_of_lt n 0 (Nat.two_pow_pos n)

/-- Cutting a 16-bit place of the word to its `n` lowest bits reads the `n` bits that start where the place starts. -/
theorem lowBits_extractLsb' (n start : Nat) (hn : n ≤ 16) (w : BitVec 64) :
    lowBits n (w.extractLsb' start 16) = (w.extractLsb' start n).setWidth 16 := by
  have hdvd : 2 ^ n ∣ 2 ^ 16 := Nat.pow_dvd_pow 2 hn
  have hlt : (w.extractLsb' start n).toNat < 2 ^ 16 :=
    lt_of_lt_of_le (w.extractLsb' start n).isLt (Nat.pow_le_pow_right (by decide) hn)
  apply BitVec.eq_of_toNat_eq
  rw [lowBits_toNat, BitVec.toNat_setWidth, Nat.mod_eq_of_lt hlt, BitVec.extractLsb'_toNat, BitVec.extractLsb'_toNat,
    Nat.mod_mod_of_dvd _ hdvd]

theorem Instr.operandsFit_iff (n : Nat) (i : Instr) :
    i.operandsFit n = true ↔ i.off.toNat < 2 ^ n ∧ i.aux.toNat < 2 ^ n := by
  rw [Instr.operandsFit, Bool.and_eq_true, decide_eq_true_eq, decide_eq_true_eq]

/-! ### An instruction with its operands cut to `n` bits -/

/-- The instruction with its offset and its count or type cut to fields of `n` bits (R9). -/
def Instr.narrow (n : Nat) : Instr → Instr
  | .rdU8 off => .rdU8 (lowBits n off)
  | .rdU16 off => .rdU16 (lowBits n off)
  | .rdU32 off => .rdU32 (lowBits n off)
  | .rdU64 off => .rdU64 (lowBits n off)
  | .rdI16 off => .rdI16 (lowBits n off)
  | .rdF32 off => .rdF32 (lowBits n off)
  | .rdBytes off len => .rdBytes (lowBits n off) (lowBits n len)
  | .rdBits off bitoff bitw => .rdBits (lowBits n off) bitoff bitw
  | .wrU8 off => .wrU8 (lowBits n off)
  | .wrU16 off => .wrU16 (lowBits n off)
  | .wrU32 off => .wrU32 (lowBits n off)
  | .wrU64 off => .wrU64 (lowBits n off)
  | .wrI16 off => .wrI16 (lowBits n off)
  | .wrF32 off => .wrF32 (lowBits n off)
  | .wrBytes off len => .wrBytes (lowBits n off) (lowBits n len)
  | .wrBits off bitoff bitw => .wrBits (lowBits n off) bitoff bitw
  | .lookup mtype => .lookup (lowBits n mtype)
  | .decPld mtype => .decPld (lowBits n mtype)
  | i => i

@[simp] theorem Instr.off_narrow (n : Nat) (i : Instr) : (i.narrow n).off = lowBits n i.off := by
  cases i <;> simp only [Instr.narrow, Instr.off, lowBits_zero]

@[simp] theorem Instr.aux_narrow (n : Nat) (i : Instr) : (i.narrow n).aux = lowBits n i.aux := by
  cases i <;> simp only [Instr.narrow, Instr.aux, lowBits_zero]

theorem Instr.operandsFit_narrow (n : Nat) (i : Instr) : (i.narrow n).operandsFit n = true := by
  rw [Instr.operandsFit_iff, Instr.off_narrow, Instr.aux_narrow]
  exact ⟨lowBits_lt n i.off, lowBits_lt n i.aux⟩

/-- An instruction is its operation with its operands, so one whose operands are unchanged by the cut is unchanged. -/
theorem Instr.narrow_of_operandsFit (n : Nat) (i : Instr) (h : i.operandsFit n = true) : i.narrow n = i := by
  obtain ⟨hoff, haux⟩ := (Instr.operandsFit_iff n i).mp h
  have hoff' : lowBits n i.off = i.off := lowBits_of_lt n i.off hoff
  have haux' : lowBits n i.aux = i.aux := lowBits_of_lt n i.aux haux
  cases i <;> simp_all only [Instr.narrow, Instr.off, Instr.aux]

/-! ### Decoding at another width -/

theorem decodeOp_eq_map_narrow (n : Nat) (w : BitVec 64) :
    decodeOp n w = (decodeOp Config.offBits w).map (Instr.narrow n) := by
  simp only [decodeOp, cmdOff_eq_lowBits n, cmdAux_eq_lowBits n]
  split <;> rfl

/-- A block of any `OFF_BITS` selects what the default block selects, with the operands cut to its fields, and refuses what the
default block refuses. -/
theorem decode_command_eq_map_narrow (n : Nat) (w : BitVec 64) :
    decode n (.command w) = (decode Config.offBits (.command w)).map (Instr.narrow n) := by
  simp only [decode, decodeCommand]
  split
  · rfl
  · exact decodeOp_eq_map_narrow n w

theorem exists_narrow_of_decode_command (n : Nat) (w : BitVec 64) (i : Instr) (h : decode n (.command w) = .ok i) :
    ∃ j : Instr, j.narrow n = i := by
  rw [decode_command_eq_map_narrow] at h
  cases hd : decode Config.offBits (.command w) with
  | error e => rw [hd] at h; cases h
  | ok j => rw [hd] at h; exact ⟨j, Except.ok.inj h⟩

theorem decode_command_of_default (n : Nat) (w : BitVec 64) (i : Instr)
    (h : decode Config.offBits (.command w) = .ok i) : decode n (.command w) = .ok (i.narrow n) := by
  rw [decode_command_eq_map_narrow, h]
  rfl

/-- Settles O4: decoding at any `OFF_BITS` is decoding at the default followed by the cut of the operands. -/
theorem offsetAndAuxiliaryFieldsHaveOffBitsBits : Obligations.OffsetAndAuxiliaryFieldsHaveOffBitsBits := by
  refine ⟨fun n w i h => ?fits, fun n hn w => ?places, fun n w i h => ⟨i.narrow n, ?_, ?_, ?_, ?_⟩⟩
  case fits =>
    obtain ⟨j, rfl⟩ := exists_narrow_of_decode_command n w i h
    exact j.operandsFit_narrow n
  case places =>
    simp only [Config.offBitsLegal, Bool.and_eq_true, decide_eq_true_eq] at hn
    exact ⟨lowBits_extractLsb' n 32 hn.2 w, lowBits_extractLsb' n 48 hn.2 w⟩
  · exact decode_command_of_default n w i h
  · rw [Instr.off_narrow, lowBits_toNat]
  · rw [Instr.aux_narrow, lowBits_toNat]
  · exact Instr.narrow_of_operandsFit n i

end Sys2Proof

/-! ## How a transaction ends (10_state.md R30, R34; 43_packet.md R266; 60_exceptions.md R280, R281)

`MayEndWith` lists once everything a transaction can leave on the output ports, with the port group it drives and, for a decode,
the shared operation that answered it. `step_mayEndWith` says that every step ends that way; the discipline of the ports, the
ports of each operation code and the invariant are read off the list. -/

namespace Sys2Proof

open Machine Statement

/-! ### Decoded records are well formed -/

/-- A field that is not reserved decodes to a value of its kind, where the buffer holds all of it (R192). -/
theorem exists_decodeValue (b : Bytes) (o : Nat) (k : Kind) (hk : k.isReserved = false) (hb : o + k.size ≤ b.length) :
    ∃ v, decodeValue b o k = some v ∧ v.hasKind k = true := by
  cases k with
  | bytes n =>
    have hlen : (bytesRead b o n).length = n := by
      rw [bytesRead_length]
      simp only [Kind.size] at hb
      omega
    exact ⟨_, rfl, by simp [Value.hasKind, hlen]⟩
  | reserved n => cases hk
  | u8 | u16 | i16 | u32 | f32 | u64 | hsbk => exact ⟨_, rfl, rfl⟩

/-- A reserved field gives no field of the record (R194). -/
theorem decodeFields_reserved (f : Field) (fs : List Field) (b : Bytes) (h : f.kind.isReserved = true) :
    decodeFields (f :: fs) b = decodeFields fs b := by
  cases hk : f.kind with
  | reserved n => simp [decodeFields, hk, decodeValue]
  | u8 | u16 | i16 | u32 | f32 | u64 | bytes | hsbk => rw [hk] at h; cases h

/-- Any other field gives its name and its value (R192). -/
theorem decodeFields_field (f : Field) (fs : List Field) (b : Bytes) (v : Value)
    (h : decodeValue b f.offset f.kind = some v) : decodeFields (f :: fs) b = (f.name, v) :: decodeFields fs b := by
  simp [decodeFields, h]

/-- The fields decoded from a buffer that holds the whole layout are those of the layout (R36, R242). -/
theorem fieldsMatch_decodeFields (layout : List Field) (o n : Nat) (b : Bytes) (ht : layoutTiles o n layout = true)
    (hn : n ≤ b.length) : fieldsMatch layout (decodeFields layout b) = true := by
  induction layout generalizing o with
  | nil => rfl
  | cons f fs ih =>
    simp only [layoutTiles, Bool.and_eq_true, beq_iff_eq] at ht
    obtain ⟨hoff, hrest⟩ := ht
    have hend : o + f.kind.size ≤ n := layoutTiles_le fs _ n hrest
    cases hk : f.kind.isReserved with
    | true => rw [fieldsMatch_reserved f fs _ hk, decodeFields_reserved f fs b hk, ih _ hrest]
    | false =>
      obtain ⟨v, hv, hkind⟩ := exists_decodeValue b f.offset f.kind hk (by omega)
      simp [decodeFields_field f fs b v hv, fieldsMatch_field f fs _ _ hk, hkind, ih _ hrest]

/-- Under a permitted registry a decoded record is well formed (R36, R242). -/
theorem wf_of_decodePayload (r : Registry) (mt : BitVec 16) (b : Bytes) (p : Payload) (hr : r.valid = true)
    (h : decodePayload r mt b = .ok p) : p.wf r = true := by
  obtain ⟨e, hfind, hlen, rfl⟩ := (decodePayload_ok r mt b p).mp h
  have htiles := (tiles_of_valid r hr e (find_some r mt e hfind).1).1
  simp [Payload.wf, hfind, fieldsMatch_decodeFields e.layout 0 e.length b htiles hlen]

/-- The record of a parsed packet is the one decoded from the `L` bytes after the header (R261). -/
theorem decodePayload_of_parsePacket (r : Registry) (b : Bytes) (h : Header) (p : Payload)
    (hp : parsePacket r b = .ok (h, p)) : ∃ pb : Bytes, decodePayload r h.messageType pb = .ok p := by
  obtain ⟨e, -, hfind, hlen, -, hrec⟩ := (parsePacket_ok r b h p).mp hp
  refine ⟨bytesRead b 36 e.length, (decodePayload_ok r _ _ p).mpr ⟨e, hfind, ?_, hrec⟩⟩
  rw [bytesRead_length]
  omega

/-- A parsed header and record agree in type and size (R266). -/
theorem type_and_size_of_parsePacket (r : Registry) (b : Bytes) (h : Header) (p : Payload)
    (hp : parsePacket r b = .ok (h, p)) :
    h.messageType = p.mtype ∧ (r.find p.mtype).map (fun e => Config.headerLen + e.length) = some h.size.toNat := by
  obtain ⟨e, -, hfind, -, hsize, rfl⟩ := (parsePacket_ok r b h p).mp hp
  exact ⟨rfl, by simp [hfind, hsize]⟩

theorem sound_okOhdr (r : Registry) (b : Bytes) (h : Header) (hd : decodeHeader b = .ok h) :
    (Outputs.okOhdr h).sound r = true := by
  simp [Outputs.sound, ((decodeHeader_ok b h).mp hd).2.2]

theorem sound_okOpld (r : Registry) (mt : BitVec 16) (b : Bytes) (p : Payload) (hr : r.valid = true)
    (hd : decodePayload r mt b = .ok p) : (Outputs.okOpld p).sound r = true := by
  simp [Outputs.sound, wf_of_decodePayload r mt b p hr hd]

theorem sound_okPacket (r : Registry) (b : Bytes) (h : Header) (p : Payload) (hr : r.valid = true)
    (hp : parsePacket r b = .ok (h, p)) : (Outputs.okPacket h p).sound r = true := by
  obtain ⟨e, hdec, -⟩ := (parsePacket_ok r b h p).mp hp
  have hvalid : h.valid = true := ((decodeHeader_ok b h).mp hdec).2.2
  obtain ⟨pb, hpb⟩ := decodePayload_of_parsePacket r b h p hp
  have hwf : p.wf r = true := wf_of_decodePayload r _ pb p hr hpb
  obtain ⟨htype, hsize⟩ := type_and_size_of_parsePacket r b h p hp
  simp [Outputs.sound, hvalid, hwf, htype, hsize]

/-! ### The port groups -/

/-- The groups of output ports of R34. -/
inductive PortGroup where
  | rval
  | rdata
  | obuf
  | olen
  | ohdr
  | opld
  | packet

/-- Which of `RVAL`, `RDATA`, `OBUF`, `OLEN`, `OHDR`, `OPLD` a group consists of. -/
def PortGroup.ports : PortGroup → List Bool
  | .rval => [true, false, false, false, false, false]
  | .rdata => [false, true, false, false, false, false]
  | .obuf => [false, false, true, false, false, false]
  | .olen => [false, false, false, true, false, false]
  | .ohdr => [false, false, false, false, true, false]
  | .opld => [false, false, false, false, false, true]
  | .packet => [false, false, false, false, true, true]

/-- The group that a contract of the variant dispatcher drives (log 1). -/
def contractGroup : Contract → PortGroup
  | .lookup => .olen
  | .encode => .obuf
  | .decode => .opld

/-- The group that an instruction drives when it succeeds (R34); a message-type row drives its contract's (log 1). -/
def Instr.portGroup (c : Contract) : Instr → PortGroup
  | .rdU8 _ | .rdU16 _ | .rdU32 _ | .rdU64 _ | .rdI16 _ | .rdF32 _ | .rdBits _ _ _ => .rval
  | .rdBytes _ _ => .rdata
  | .wrU8 _ | .wrU16 _ | .wrU32 _ | .wrU64 _ | .wrI16 _ | .wrF32 _ | .wrBytes _ _ | .wrBits _ _ _ => .obuf
  | .encHdr | .encPld | .assemble => .obuf
  | .decHdr => .ohdr
  | .lookup _ => .olen
  | .decPld _ => .opld
  | .parse => .packet
  | _ => contractGroup c

/-- What a transaction on the ports of `s` can leave on the output ports, when the group that its operation drives is the one
given: values on that group alone, or an error. A decoded value comes from its shared decode operation. -/
inductive MayEndWith (s : State) : PortGroup → Outputs → Prop
  | rval (v : BitVec 64) : MayEndWith s .rval (Outputs.okRval v)
  | rdata (b : Bytes) : MayEndWith s .rdata (Outputs.okRdata b)
  | obuf (b : Bytes) : MayEndWith s .obuf (Outputs.okObuf b)
  | olen (l : Nat) : MayEndWith s .olen (Outputs.okOlen l)
  | ohdr (h : Header) (hd : decodeHeader s.ibuf = .ok h) : MayEndWith s .ohdr (Outputs.okOhdr h)
  | opld (mt : BitVec 16) (p : Payload) (hd : decodePayload s.registry mt s.ibuf = .ok p) :
      MayEndWith s .opld (Outputs.okOpld p)
  | packet (x : Header × Payload) (hp : parsePacket s.registry s.ibuf = .ok x) :
      MayEndWith s .packet (Outputs.okPacket x.1 x.2)
  | error (g : PortGroup) (e : Err) : MayEndWith s g (Outputs.error e)

/-- A success drives exactly its group's ports (R34). -/
theorem MayEndWith.drivenPorts_or_error {s : State} {g : PortGroup} {o : Outputs} (h : MayEndWith s g o) :
    (o.status = some statusOk ∧ drivenPorts o = g.ports) ∨ ∃ e : Err, o = Outputs.error e := by
  cases h with
  | error _ e => exact .inr ⟨e, rfl⟩
  | rval | rdata | obuf | olen | ohdr | opld | packet => exact .inl ⟨rfl, rfl⟩

/-- An error leaves its code of R281 on `STATUS` and nothing else (R280). -/
theorem disciplined_error (e : Err) : (Outputs.error e).disciplined = true := by cases e <;> rfl

theorem MayEndWith.disciplined {s : State} {g : PortGroup} {o : Outputs} (h : MayEndWith s g o) :
    o.disciplined = true := by
  cases h with
  | error _ e => exact disciplined_error e
  | rval | rdata | obuf | olen | ohdr | opld | packet => rfl

theorem MayEndWith.status_ne_none {s : State} {g : PortGroup} {o : Outputs} (h : MayEndWith s g o) :
    o.status ≠ none := by
  cases h <;> exact Option.some_ne_none _

/-- Under a permitted registry the decoded values are complete, checked and consistent (R36, R171, R266). -/
theorem MayEndWith.sound {s : State} {g : PortGroup} {o : Outputs} (h : MayEndWith s g o)
    (hr : s.registry.valid = true) : o.sound s.registry = true := by
  cases h with
  | ohdr hdr hdec => exact sound_okOhdr s.registry s.ibuf hdr hdec
  | opld mt p hdec => exact sound_okOpld s.registry mt s.ibuf p hr hdec
  | packet x hp => exact sound_okPacket s.registry s.ibuf x.1 x.2 hr hp
  | rval | rdata | obuf | olen | error => rfl

/-! ### What an instruction and a step end with -/

/-- A transaction that passes on the answer of a shared operation ends with its group or with its error. -/
theorem finish_map_mayEndWith {α : Type} {s : State} {g : PortGroup} {f : α → Outputs} (r : Except Err α)
    (h : ∀ a, r = .ok a → MayEndWith s g (f a)) : ∃ o, s.finish (r.map f) = ends s o ∧ MayEndWith s g o := by
  cases r with
  | ok a => exact ⟨f a, rfl, h a rfl⟩
  | error e => exact ⟨Outputs.error e, rfl, .error g e⟩

theorem runVariant_mayEndWith (mt : BitVec 16) (s : State) :
    ∃ o, runVariant mt s = ends s o ∧ MayEndWith s (contractGroup s.contract) o := by
  rw [runVariant]
  cases hc : s.contract with
  | lookup => rw [variantResult_lookup mt s hc]; exact finish_map_mayEndWith _ fun l _ => .olen l
  | encode => rw [variantResult_encode mt s hc]; exact finish_map_mayEndWith _ fun b _ => .obuf b
  | decode => rw [variantResult_decode mt s hc]; exact finish_map_mayEndWith _ fun p hp => .opld mt p hp

/-- Every instruction ends with its group or with an error, and changes the output ports alone (R34, R70). -/
theorem exec_mayEndWith (i : Instr) (s : State) :
    ∃ o, exec i s = ends s o ∧ MayEndWith s (i.portGroup s.contract) o := by
  cases i with
  | rdU8 | rdU16 | rdU32 | rdU64 | rdI16 | rdF32 | rdBits => exact finish_map_mayEndWith _ fun v _ => .rval _
  | rdBytes => exact finish_map_mayEndWith _ fun b _ => .rdata b
  | wrU8 | wrU16 | wrU32 | wrU64 | wrI16 | wrF32 | wrBytes | wrBits | encPld | assemble =>
    exact finish_map_mayEndWith _ fun b _ => .obuf b
  | encHdr => exact ⟨_, rfl, .obuf _⟩
  | decHdr => exact finish_map_mayEndWith _ fun h hd => .ohdr h hd
  | lookup => exact finish_map_mayEndWith _ fun l _ => .olen l
  | decPld mt => exact finish_map_mayEndWith _ fun p hp => .opld mt p hp
  | parse => exact finish_map_mayEndWith _ fun x hx => .packet x hx
  | _ => exact runVariant_mayEndWith _ s

/-- Every step ends with one group or with an error, and changes the output ports alone (R34, R70, R280). -/
theorem step_mayEndWith (s : State) : ∃ g o, step s = ends s o ∧ MayEndWith s g o := by
  cases hd : decode s.offBits s.fetchWord with
  | ok i => rw [step_of_decode s i hd]; exact ⟨_, exec_mayEndWith i s⟩
  | error e => exact ⟨.rval, _, step_of_decode_error s e hd, .error _ _⟩

/-! ### The invariant -/

theorem Machine.State.inv_iff (s : State) :
    s.inv = true ↔ s.registry.valid = true ∧ Config.offBitsLegal s.offBits = true ∧ s.out.disciplined = true ∧
      s.out.sound s.registry = true := by
  simp only [State.inv, Bool.and_eq_true, and_assoc]

/-- Settles O53: a step changes the outputs alone, and what it leaves there is disciplined and sound. -/
theorem everyStepKeepsTheInvariant : Obligations.EveryStepKeepsTheInvariant := by
  intro s t hinv hstep
  obtain ⟨hreg, hoff, -, -⟩ := (State.inv_iff s).mp hinv
  obtain ⟨g, o, ho, hend⟩ := step_mayEndWith s
  obtain rfl : { s with out := o } = t := Host.Outcome.next.inj (ho.symm.trans hstep)
  exact (State.inv_iff _).mpr ⟨hreg, hoff, hend.disciplined, hend.sound hreg⟩

/-- Settles O52: the defaults are permitted parameters, and empty outputs are disciplined and sound. -/
theorem resetMeetsTheInvariant : Obligations.ResetMeetsTheInvariant :=
  (State.inv_iff State.reset).mpr ⟨by decide, by decide, rfl, rfl⟩

/-! ### The outputs of a transaction -/

/-- Settles O46: the outputs that a step can end with are disciplined and carry a status. -/
theorem everyTransactionEndsWithDisciplinedOutputs : Obligations.EveryTransactionEndsWithDisciplinedOutputs := by
  intro s
  obtain ⟨g, o, ho, hend⟩ := step_mayEndWith s
  exact ⟨o, ho, hend.disciplined, hend.status_ne_none⟩

/-- With zero reserved fields the operation code alone selects the operation (R91, R92). -/
theorem decode_command_of_reservedZero (n : Nat) (w : BitVec 64) (h : ReservedZero w) :
    decode n (.command w) = decodeOp n w := by
  obtain ⟨h0, h1⟩ := h
  simp [decode, decodeCommand, h0, h1]

/-- Each assigned operation code selects an operation whose group R34 gives that code. -/
theorem exists_decodeOp_portGroup (n : Nat) (w : BitVec 64) (c : Contract) (h : (cmdOp w).toNat ≤ 0x16) :
    ∃ i, decodeOp n w = .ok i ∧ (i.portGroup c).ports = portsOf (cmdOp w).toNat := by
  rw [decodeOp]
  generalize (cmdOp w).toNat = op at h ⊢
  interval_cases op <;> exact ⟨_, rfl, rfl⟩

/-- Settles O47: the word decodes to an operation of its code, which drives the group of that code or ends with an error. -/
theorem operationsDriveExactlyTheirPorts : Obligations.OperationsDriveExactlyTheirPorts := by
  intro s hformat hzero hop
  have hword : s.fetchWord = .command s.cmd := by simp [State.fetchWord, hformat]
  obtain ⟨i, hi, hports⟩ := exists_decodeOp_portGroup s.offBits s.cmd s.contract hop
  have hdecode : decode s.offBits s.fetchWord = .ok i := by rw [hword, decode_command_of_reservedZero _ _ hzero, hi]
  obtain ⟨o, ho, hend⟩ := exec_mayEndWith i s
  rw [step_of_decode s i hdecode, ← hports]
  exact ⟨o, ho, hend.drivenPorts_or_error⟩

/-! ### Earlier transactions -/

/-- The end of a transaction replaces all the outputs of the one before (R30). -/
theorem finish_with_out (s : State) (earlier : Outputs) (r : Except Err Outputs) :
    State.finish { s with out := earlier } r = s.finish r := by
  rw [finish_eq, finish_eq]

/-- No operation reads the output ports (R30). -/
theorem exec_with_out (i : Instr) (s : State) (earlier : Outputs) : exec i { s with out := earlier } = exec i s := by
  cases i with
  | encHdr => rfl
  | _ => exact finish_with_out s earlier _

theorem step_with_out (s : State) (earlier : Outputs) : step { s with out := earlier } = step s := by
  cases hd : decode s.offBits s.fetchWord with
  | ok i => rw [step_of_decode s i hd, step_of_decode { s with out := earlier } i hd, exec_with_out]
  | error e => rw [step_of_decode_error s e hd, step_of_decode_error { s with out := earlier } e hd]

/-- Settles O48: the step from the other outputs is the same step. -/
theorem outputsDoNotDependOnEarlierTransactions : Obligations.OutputsDoNotDependOnEarlierTransactions := by
  intro s earlier
  obtain ⟨-, o, ho, -⟩ := step_mayEndWith s
  exact ⟨o, ho, (step_with_out s earlier).trans ho⟩

/-! ### The presented word, and reset -/

theorem step_present_of_decode (s : State) (w : FetchWord) (i : Instr) (h : decode s.offBits w = .ok i) :
    step (s.present w) = exec i (s.present w) :=
  step_of_decode _ i (by rw [State.present_offBits, State.fetchWord_present, h])

/-- A row of the opcode table reads as an instruction when its word decodes to it at the default `OFF_BITS`. -/
theorem decodeTableWord_eq_some_iff (nbits w : Nat) (i : Instr) :
    decodeTableWord nbits w = some i ↔ decode Config.offBits (tableWord nbits w) = .ok i := by
  rw [decodeTableWord]
  cases decode Config.offBits (tableWord nbits w) <;> simp [Except.toOption]

/-- Settles O1: a table row is presented like any word, and at the default `OFF_BITS` it decodes as the table reads it. -/
theorem stepRunsTheDecodedInstruction : Obligations.StepRunsTheDecodedInstruction := by
  refine ⟨step_of_decode, step_present_of_decode, fun s nbits w i hoff hrow => ?_⟩
  have hdecode : decode s.offBits (tableWord nbits w) = .ok i := by
    rw [hoff]
    exact (decodeTableWord_eq_some_iff nbits w i).mp hrow
  exact step_present_of_decode s (tableWord nbits w) i hdecode

/-- Settles O51: each part is a field of the reset state or a constant of the block. -/
theorem resetLeavesTheConstantsAndNoOutput : Obligations.ResetLeavesTheConstantsAndNoOutput :=
  ⟨rfl, rfl, rfl, rfl, rfl, rfl, rfl, rfl, rfl, rfl, rfl, rfl⟩

end Sys2Proof

/-! ## Views of one memory (20_memory.md R66) and the frame of a transaction (20_memory.md R70, R71)

A narrow read inside a wider write sees the bytes `k .. k+m-1` of the written value (`memRead_memWrite_slice`), and these are the
bits `8(k+m)-1:8k` of `VAL` (`zext64_truncVal_slice`). The three reads of O17 are the cases of those two equations. -/

namespace Sys2Proof

open Machine Statement

/-! ### A narrow read inside a wider write -/

/-- The `m` bytes from the `k`-th written byte on are those of the value without its `k` lowest bytes (R63). -/
theorem bytesRead_memWrite_slice (b : Bytes) (o n v k m : Nat) (hfits : o + n ≤ b.length) (hslice : k + m ≤ n) :
    bytesRead (memWrite b o n v) (o + k) m = leBytes m (v / 256 ^ k) := by
  apply List.ext_getElem?
  intro j
  rw [bytesRead_getElem?, leBytes_getElem?]
  split
  · rw [memWrite, bytesWrite_getElem?, leBytes_length, if_pos (by omega), if_pos (by omega), leBytes_getElem?,
      if_pos (by omega), show o + k + j - o = k + j by omega, Nat.div_div_eq_div_mul, Nat.pow_add]
  · rfl

/-- A read of `m` bytes inside a write of `n` bytes answers that slice of the written value (R66). -/
theorem memRead_memWrite_slice (b : Bytes) (o n v k m : Nat) (hfits : o + n ≤ b.length) (hslice : k + m ≤ n) :
    memRead (memWrite b o n v) (o + k) m = v / 256 ^ k % 256 ^ m := by
  rw [memRead, bytesRead_memWrite_slice b o n v k m hfits hslice, leValue_leBytes]

/-- The bytes `k .. k+m-1` of a truncated `VAL`, widened to `RVAL`, are the bits `8(k+m)-1:8k` of `VAL` (R12, R132). -/
theorem zext64_truncVal_slice (n k m : Nat) (val : BitVec 64) (hslice : k + m ≤ n) :
    zext64 (truncVal (8 * n) val / 256 ^ k % 256 ^ m) = (val.extractLsb' (8 * k) (8 * m)).setWidth 64 := by
  have hbits : truncVal (8 * n) val / 256 ^ k % 256 ^ m = val.toNat / 256 ^ k % 256 ^ m := by
    rw [truncVal, Nat.pow_mul, show n = k + (n - k) by omega, Nat.pow_add, Nat.mod_mul_right_div_self,
      Nat.mod_mod_of_dvd _ (Nat.pow_dvd_pow 256 (by omega))]
  rw [hbits, zext64, ← BitVec.ofNat_toNat, BitVec.extractLsb'_toNat, Nat.shiftRight_eq_div_pow, Nat.pow_mul, Nat.pow_mul]

/-! ### Accesses in bounds -/

/-- A zero-extended read in bounds answers the bytes' value (R64, R132). -/
theorem finish_readField_of_le (s : State) (o w : Nat) (hfits : o + w ≤ s.ibuf.length) :
    s.finish ((readField s.ibuf o w).map fun v => Outputs.okRval (zext64 v)) =
      ends s (Outputs.okRval (zext64 (memRead s.ibuf o w))) := by
  rw [readField_eq, if_pos hfits, except_map_ok, finish_ok]

/-- A value write in bounds answers the written copy of `IBUF` (R64, R130). -/
theorem finish_writeField_of_le (s : State) (o w v : Nat) (hfits : o + w ≤ s.ibuf.length) :
    s.finish ((writeField s.ibuf o w v).map Outputs.okObuf) = ends s (Outputs.okObuf (memWrite s.ibuf o w v)) := by
  rw [writeField_eq, if_pos hfits, except_map_ok, finish_ok]

/-- A read of `m` bytes that starts `k` bytes into a write of `n` bytes of `VAL` (R66). -/
theorem finish_readField_slice (t : State) (b : Bytes) (val : BitVec 64) (o n k m : Nat) (hfits : o + n ≤ b.length)
    (hwritten : t.ibuf = memWrite b o n (truncVal (8 * n) val)) (hslice : k + m ≤ n) :
    t.finish ((readField t.ibuf (o + k) m).map fun v => Outputs.okRval (zext64 v)) =
      ends t (Outputs.okRval ((val.extractLsb' (8 * k) (8 * m)).setWidth 64)) := by
  have hread : o + k + m ≤ t.ibuf.length := by
    rw [hwritten, memWrite_length]
    omega
  rw [finish_readField_of_le t (o + k) m hread, hwritten, memRead_memWrite_slice b o n _ k m hfits hslice,
    zext64_truncVal_slice n k m val hslice]

/-- Settles O17: each read is of the slice of the four written bytes that starts `k` bytes in, `k` its distance from `OFF`. -/
theorem narrowReadsSeeSlicesOfAWideWrite : Obligations.NarrowReadsSeeSlicesOfAWideWrite := by
  intro s off hfits
  have hslice (t : State) := finish_readField_slice t s.ibuf s.val off.toNat 4 (hfits := hfits)
  refine ⟨_, finish_writeField_of_le s off.toNat 4 (truncVal 32 s.val) hfits, ?_, fun o ho => ?_, fun k o hk ho => ?_⟩
  · exact hslice _ 0 2 rfl (by omega)
  · rw [exec, execRdU16, ho]
    exact hslice _ 2 2 rfl (by omega)
  · rw [exec, execRdU8, ho]
    exact hslice _ k 1 rfl (by omega)

/-! ### Repeating a transaction -/

/-- Settles O49: a step replaces the outputs alone, and no step reads the outputs (`step_with_out`). -/
theorem transactionsAreIdempotentAndChangeOnlyOutputs : Obligations.TransactionsAreIdempotentAndChangeOnlyOutputs := by
  intro s
  obtain ⟨-, o, ho, -⟩ := step_mayEndWith s
  exact ⟨{ s with out := o }, ho, rfl, (step_with_out s o).trans ho⟩

end Sys2Proof

/-! ## The command word and its decoding (30_encoding.md R90 to R96)

An encoded instruction decodes to itself with its operands cut to the block's `OFF_BITS` (`decode_encode`); the word decides
the decoding through the operation code and the fields that this code uses (`decodeOp_congr`). -/

namespace Sys2Proof

open Machine Statement

/-! ### Encoding then decoding -/

/-- Decoding the word of an instruction gives it with its operands cut to the fields of the block (R9, R90, R95). -/
theorem decode_encode (n : Nat) (i : Instr) : decode n (encode i) = .ok (i.narrow n) := by
  cases i with
  | rdU8 | rdU16 | rdU32 | rdU64 | rdI16 | rdF32 | rdBytes | rdBits | wrU8 | wrU16 | wrU32 | wrU64 | wrI16 | wrF32
  | wrBytes | wrBits | encHdr | decHdr | lookup | encPld | decPld | assemble | parse =>
    simp [encode, decode, decodeCommand_packCommand, decodeOp, Instr.narrow]
  | _ => rfl

theorem decode_encode_of_operandsFit (n : Nat) (i : Instr) (h : i.operandsFit n = true) : decode n (encode i) = .ok i := by
  rw [decode_encode, Instr.narrow_of_operandsFit n i h]

/-- Settles O3: operands that fit are unchanged by the cut, and every operand fits the default width. -/
theorem decodeOfEncodeIsTheInstruction : Obligations.DecodeOfEncodeIsTheInstruction :=
  ⟨decode_encode_of_operandsFit, fun i => decode_encode_of_operandsFit Config.offBits i (operandsFit_default i)⟩

/-- Settles O2: the encoder writes the six words of R96, and an encoded instruction decodes to itself. -/
theorem workedCommandWordsDecodeAndEncode : Obligations.WorkedCommandWordsDecodeAndEncode := by
  intro x hx
  have hencode : encode x.1 = .command x.2 := by
    revert x
    decide
  refine ⟨?_, hencode⟩
  rw [← hencode]
  exact decode_encode_of_operandsFit Config.offBits x.1 (operandsFit_default x.1)

/-! ### Reserved fields, unassigned codes, unused fields -/

theorem fetchWord_of_command (s : State) (h : s.format = .command) : s.fetchWord = .command s.cmd := by
  rw [State.fetchWord, h]

theorem fetchWord_of_messageType (s : State) (h : s.format = .messageType) : s.fetchWord = .messageType s.msgType := by
  rw [State.fetchWord, h]

theorem decode_command_of_reserved (n : Nat) (w : BitVec 64) (h : cmdRsv0 w ≠ 0 ∨ cmdRsv1 w ≠ 0) :
    decode n (.command w) = .error .reservedBits := by
  rw [decode, decodeCommand, if_pos h]

theorem decodeOp_of_unassigned (n : Nat) (w : BitVec 64) (h : 0x17 ≤ (cmdOp w).toNat) :
    decodeOp n w = .error .unassignedOp := by
  have hlt : (cmdOp w).toNat < 32 := (cmdOp w).isLt
  rw [decodeOp]
  generalize (cmdOp w).toNat = op at h hlt ⊢
  interval_cases op <;> rfl

/-- Two words of the same operation with equal used fields select the same instruction, at every `OFF_BITS` (R91, R94). -/
theorem decodeOp_congr (n : Nat) (w w' : BitVec 64) (h : SameUsedFields w w') : decodeOp n w = decodeOp n w' := by
  obtain ⟨hop, hoff, hbits, haux⟩ := h
  simp only [decodeOp, cmdOff_eq_lowBits n, cmdAux_eq_lowBits n, ← hop]
  generalize (cmdOp w).toNat = op at hoff hbits haux
  split
  case h_1 | h_2 | h_3 | h_4 | h_5 | h_6 | h_9 | h_10 | h_11 | h_12 | h_13 | h_14 => rw [hoff rfl]
  case h_7 | h_15 => rw [hoff rfl, haux rfl]
  case h_8 | h_16 => rw [hoff rfl, (hbits rfl).1, (hbits rfl).2]
  case h_19 | h_21 => rw [haux rfl]
  all_goals rfl

theorem decode_command_congr (n : Nat) (w w' : BitVec 64) (hw : ReservedZero w) (hw' : ReservedZero w')
    (h : SameUsedFields w w') : decode n (.command w) = decode n (.command w') := by
  rw [decode_command_of_reservedZero n w hw, decode_command_of_reservedZero n w' hw', decodeOp_congr n w w' h]

/-- Settles O5: the reserved fields are checked first, and the decoded operation is built from its used fields. -/
theorem reservedFieldsRaiseAndUnusedFieldsAreIgnored : Obligations.ReservedFieldsRaiseAndUnusedFieldsAreIgnored := by
  refine ⟨fun s hformat hreserved => ?_, decode_command_congr⟩
  apply step_of_decode_error s .reservedBits
  rw [fetchWord_of_command s hformat, decode_command_of_reserved _ _ hreserved]

/-- Settles O6: a code above 0x16 is refused, and each code up to it selects an operation. -/
theorem unassignedOperationCodesRaise : Obligations.UnassignedOperationCodesRaise := by
  refine ⟨fun s hformat hzero hop => ?_, fun n w hzero hop => ?_⟩
  · apply step_of_decode_error s .unassignedOp
    rw [fetchWord_of_command s hformat, decode_command_of_reservedZero _ _ hzero, decodeOp_of_unassigned _ _ hop]
  · obtain ⟨i, hi, -⟩ := exists_decodeOp_portGroup n w .lookup hop
    exact ⟨i, by rw [decode_command_of_reservedZero _ _ hzero, hi]⟩

/-! ### What an operation reads -/

/-- The instruction that a command word selects is the operation of its code, not a message-type row (R92, log 1). -/
theorem command_of_decodeOp (n : Nat) (w : BitVec 64) (i : Instr) (h : decodeOp n w = .ok i) :
    messageCode i = none ∧ Laws.EncodesAsRow.rowMatch i = (cmdOp w).toNat := by
  rw [decodeOp] at h
  generalize (cmdOp w).toNat = op at h ⊢
  split at h <;> cases h <;> exact ⟨rfl, rfl⟩

/-- Two transactions that come to the same result end with the same outputs. -/
theorem finish_congr (s t : State) {r r' : Except Err Outputs} (h : r = r') :
    ∃ o : Outputs, s.finish r = ends s o ∧ t.finish r' = ends t o :=
  ⟨outputsOf r', h ▸ finish_eq s r, finish_eq t r'⟩

/-- An operation of the command word gives equal outputs from equal registries and equal ports of those it reads (R94). -/
theorem exec_congr (i : Instr) (s t : State) (hi : messageCode i = none) (hreg : s.registry = t.registry)
    (hports : SameReadPorts (Laws.EncodesAsRow.rowMatch i) s t) :
    ∃ o : Outputs, exec i s = ends s o ∧ exec i t = ends t o := by
  obtain ⟨hibuf, hval, hdata, hhdr, hpld⟩ := hports
  cases i with
  | rdU8 | rdU16 | rdU32 | rdU64 | rdI16 | rdF32 | rdBytes | rdBits | decHdr =>
    exact finish_congr s t (by rw [hibuf rfl])
  | wrU8 | wrU16 | wrU32 | wrU64 | wrI16 | wrF32 | wrBits => exact finish_congr s t (by rw [hibuf rfl, hval rfl])
  | wrBytes => exact finish_congr s t (by rw [hibuf rfl, hdata rfl])
  | encHdr => exact ⟨_, rfl, by rw [hhdr rfl]; rfl⟩
  | lookup => exact finish_congr s t (by rw [hreg])
  | encPld => exact finish_congr s t (by rw [hreg, hpld rfl])
  | decPld => exact finish_congr s t (by rw [hreg, hibuf rfl])
  | assemble => exact finish_congr s t (by rw [hreg, hhdr rfl, hpld rfl])
  | parse => exact finish_congr s t (by rw [hreg, hibuf rfl])
  | _ => cases hi

/-- Settles O50: both words decode alike, to an operation that reads the ports of its code, or to the same error. -/
theorem operationsReadOnlyTheirFieldsAndPorts : Obligations.OperationsReadOnlyTheirFieldsAndPorts := by
  intro s t hs ht hszero htzero hoff hfields hreg hports
  have hsword : decode s.offBits s.fetchWord = decodeOp s.offBits s.cmd := by
    rw [fetchWord_of_command s hs, decode_command_of_reservedZero _ _ hszero]
  have htword : decode t.offBits t.fetchWord = decodeOp s.offBits s.cmd := by
    rw [fetchWord_of_command t ht, decode_command_of_reservedZero _ _ htzero, ← hoff, decodeOp_congr _ _ _ hfields]
  cases hd : decodeOp s.offBits s.cmd with
  | ok i =>
    obtain ⟨hcommand, hcode⟩ := command_of_decodeOp s.offBits s.cmd i hd
    rw [step_of_decode s i (hsword.trans hd), step_of_decode t i (htword.trans hd)]
    exact exec_congr i s t hcommand hreg (hcode ▸ hports)
  | error e => exact ⟨_, step_of_decode_error s e (hsword.trans hd), step_of_decode_error t e (htword.trans hd)⟩

end Sys2Proof

/-! ## Message-type words (30_encoding.md R107; log 1)

The words that select a row are the codes of the catalog (`mem_catalogCodes_iff`), and running a row is running the variant
dispatcher on its code (`exec_of_messageCode`). What the encode contract writes is the image of the record
(`encodeFields_append`). -/

namespace Sys2Proof

open Machine Statement

/-! ### The words that select a row -/

/-- Every code of the catalog is the word of a row (R107). -/
theorem exists_decodeMessageType_of_mem (w : BitVec 16) (h : w ∈ catalogCodes) : ∃ i, decodeMessageType w = .ok i := by
  fin_cases h <;> exact ⟨_, rfl⟩

/-- A code outside the catalog selects no row (R108). -/
theorem decodeMessageType_of_not_mem (w : BitVec 16) (h : w ∉ catalogCodes) :
    decodeMessageType w = .error .unregisteredType := by
  have hcode (k : Nat) (hk : w.toNat = k) : BitVec.ofNat 16 k ∉ catalogCodes := by
    rwa [← hk, BitVec.ofNat_toNat, BitVec.setWidth_eq]
  rw [decodeMessageType]
  split
  case h_44 => rfl
  all_goals exact absurd (hcode _ ‹_›) (by decide)

theorem mem_catalogCodes_iff (n : Nat) (w : BitVec 16) : w ∈ catalogCodes ↔ ∃ i, decode n (.messageType w) = .ok i := by
  constructor
  · exact exists_decodeMessageType_of_mem w
  · rintro ⟨i, hi⟩
    by_contra hw
    rw [decode, decodeMessageType_of_not_mem w hw] at hi
    cases hi

/-- Settles O7: the decoder's codes are those of the catalog, and any other is refused as unregistered. -/
theorem messageTypeWordsSelectTheCatalog : Obligations.MessageTypeWordsSelectTheCatalog := by
  refine ⟨mem_catalogCodes_iff, fun s hformat hw => ?_⟩
  apply step_of_decode_error s .unregisteredType
  rw [fetchWord_of_messageType s hformat, decode, decodeMessageType_of_not_mem _ hw]

/-! ### Running a row -/

/-- A row runs the variant dispatcher on its code (R107). -/
theorem exec_of_messageCode (i : Instr) (mt : BitVec 16) (s : State) (h : messageCode i = some mt) :
    exec i s = ends s (outputsOf (variantResult mt s)) := by
  refine Eq.trans ?_ (runVariant_eq mt s)
  cases i <;> cases h <;> rfl

/-- Settles O38: the dispatcher's result under a contract is the result that the command of that contract ends with. -/
theorem messageRowsAgreeWithTheCommands : Obligations.MessageRowsAgreeWithTheCommands := by
  intro i mt hi s
  refine ⟨_, exec_of_messageCode i mt s hi, fun hc => ?_, fun hc => ?_, fun hc hmt => ?_⟩
  · rw [variantResult_lookup mt s hc]
    exact finish_eq s _
  · rw [variantResult_decode mt s hc]
    exact finish_eq s _
  · rw [variantResult_encode mt s hc, ← hmt, encodeVariant_of_tag]
    exact finish_eq s _

/-! ### The image of a record (42_payload_registry.md R192, R241) -/

section
variable (f : Field) (fs : List Field) (x : FieldName × Value) (vs : List (FieldName × Value))

@[simp] theorem recordOf_nil : RecordOf [] vs ↔ vs = [] := by
  simp [RecordOf]

theorem recordOf_reserved (h : f.kind.isReserved = true) : RecordOf (f :: fs) vs ↔ RecordOf fs vs := by
  simp [RecordOf, h]

theorem recordOf_field (h : f.kind.isReserved = false) :
    RecordOf (f :: fs) vs ↔
      ∃ x rest, vs = x :: rest ∧ x.1 = f.name ∧ x.2.hasKind f.kind = true ∧ RecordOf fs rest := by
  simp only [RecordOf, List.filter_cons, h, Bool.not_false, if_true, List.forall₂_cons_left_iff]
  constructor
  · rintro ⟨x, rest, ⟨hname, hkind⟩, hrest, rfl⟩
    exact ⟨x, rest, rfl, hname, hkind, hrest⟩
  · rintro ⟨x, rest, rfl, hname, hkind, hrest⟩
    exact ⟨x, rest, ⟨hname, hkind⟩, hrest, rfl⟩

theorem layoutImage_reserved (h : f.kind.isReserved = true) :
    layoutImage (f :: fs) vs = zeroBytes f.kind.size ++ layoutImage fs vs := by
  cases vs <;> simp [layoutImage, h, zeroBytes]

theorem layoutImage_field (h : f.kind.isReserved = false) :
    layoutImage (f :: fs) (x :: vs) = valueImage x.2 ++ layoutImage fs vs := by
  simp [layoutImage, h]

end

/-- The model's check of the field set is the statement's (R36, R194). -/
theorem fieldsMatch_iff_recordOf (layout : List Field) (vs : List (FieldName × Value)) :
    fieldsMatch layout vs = true ↔ RecordOf layout vs := by
  induction layout generalizing vs with
  | nil => simp
  | cons f fs ih =>
    cases hk : f.kind.isReserved with
    | true => rw [fieldsMatch_reserved f fs vs hk, recordOf_reserved f fs vs hk, ih]
    | false =>
      rw [recordOf_field f fs vs hk]
      cases vs with
      | nil => simp [hk]
      | cons x rest => simp [fieldsMatch_field f fs x rest hk, ih, and_assoc]

/-- A value of a field's kind has as many bytes as the field (R105, R192). -/
theorem valueImage_length (v : Value) (k : Kind) (h : v.hasKind k = true) : (valueImage v).length = k.size := by
  cases v <;> cases k <;> simp_all [Value.hasKind, valueImage, Kind.size]

/-- Writing a value at an offset writes its image there (R192, R239). -/
theorem encodeValue_eq_bytesWrite (b : Bytes) (o : Nat) (v : Value) : encodeValue b o v = bytesWrite b o (valueImage v) := by
  cases v with
  | hsbk c =>
    rw [valueImage, ← bytesWrite_append, ← bytesWrite_append, ← bytesWrite_append]
    simp only [List.length_append, leBytes_length]
    rfl
  | _ => rfl

/-- Bytes written over zero bytes right after `p`. -/
theorem bytesWrite_zeroBytes (p vs : Bytes) (k : Nat) (h : vs.length ≤ k) :
    bytesWrite (p ++ zeroBytes k) p.length vs = p ++ vs ++ zeroBytes (k - vs.length) := by
  induction p with
  | cons x p ih => simp [bytesWrite, ih]
  | nil =>
    induction vs generalizing k with
    | nil => cases k <;> simp [bytesWrite, zeroBytes, List.replicate_succ]
    | cons v vs ih =>
      obtain ⟨k, rfl⟩ : ∃ j, k = j + 1 := ⟨k - 1, by simp at h; omega⟩
      have hk := ih k (by simpa using h)
      simpa [zeroBytes, List.replicate_succ, bytesWrite] using hk

/-- Writing the fields of a record over zero bytes right after `p` appends the record's image to `p` (R105, R192, R194). -/
theorem encodeFields_append (layout : List Field) (vs : List (FieldName × Value)) (p : Bytes) (k : Nat)
    (ht : layoutTiles p.length (p.length + k) layout = true) (hr : RecordOf layout vs) :
    encodeFields layout vs (p ++ zeroBytes k) = p ++ layoutImage layout vs := by
  induction layout generalizing vs p k with
  | nil =>
    have hk : k = 0 := by simpa [layoutTiles] using ht
    simp [hk, zeroBytes, layoutImage]
  | cons f fs ih =>
    simp only [layoutTiles, Bool.and_eq_true, beq_iff_eq] at ht
    obtain ⟨hoff, hrest⟩ := ht
    obtain ⟨j, rfl⟩ : ∃ j, k = f.kind.size + j := ⟨k - f.kind.size, by have := layoutTiles_le fs _ _ hrest; omega⟩
    -- once `f.kind.size` bytes are appended to `p`, the rest of the layout is written after them
    have hnext (q : Bytes) (vs : List (FieldName × Value)) (hq : q.length = f.kind.size) (hvs : RecordOf fs vs) :
        encodeFields fs vs (p ++ q ++ zeroBytes j) = p ++ q ++ layoutImage fs vs :=
      ih vs (p ++ q) j (by rwa [List.length_append, hq, Nat.add_assoc]) hvs
    cases hk : f.kind.isReserved with
    | true =>
      rw [encodeFields_reserved f fs vs _ hk, layoutImage_reserved f fs vs hk, zeroBytes, List.replicate_add,
        ← List.append_assoc, ← List.append_assoc]
      exact hnext _ vs (zeroBytes_length _) ((recordOf_reserved f fs vs hk).mp hr)
    | false =>
      obtain ⟨x, rest, rfl, -, hkind, hvs⟩ := (recordOf_field f fs vs hk).mp hr
      have hlen := valueImage_length x.2 f.kind hkind
      rw [encodeFields_field f fs x rest _ hk, layoutImage_field f fs x rest hk, encodeValue_eq_bytesWrite, hoff,
        bytesWrite_zeroBytes p _ _ (by omega), hlen, Nat.add_sub_cancel_left, ← List.append_assoc]
      exact hnext _ rest hlen hvs

/-- Under a permitted registry the encoder writes the image of a record of the type's layout (R241). -/
theorem encodePayload_of_recordOf (r : Registry) (p : Payload) (e : Entry) (hr : r.valid = true)
    (hfind : r.find p.mtype = some e) (hrec : RecordOf e.layout p.fields) :
    encodePayload r p = .ok (layoutImage e.layout p.fields) := by
  have htiles := (tiles_of_valid r hr e (find_some r p.mtype e hfind).1).1
  have himage := encodeFields_append e.layout p.fields [] e.length (by simpa using htiles) hrec
  rw [encodePayload_ok]
  exact ⟨e, hfind, (fieldsMatch_iff_recordOf _ _).mpr hrec, himage.symm⟩

/-- Any other record of a registered type is refused (R241; log 9). -/
theorem encodePayload_of_not_recordOf (r : Registry) (p : Payload) (e : Entry) (hfind : r.find p.mtype = some e)
    (hrec : ¬ RecordOf e.layout p.fields) : encodePayload r p = .error .illegalOperation := by
  have hmatch : fieldsMatch e.layout p.fields ≠ true := fun h => hrec ((fieldsMatch_iff_recordOf _ _).mp h)
  simp [encodePayload, hfind, hmatch]

/-! ### The contracts of a registered type -/

theorem encodeVariant_of_other_tag (r : Registry) (mt : BitVec 16) (p : Payload) (e : Entry) (hfind : r.find mt = some e)
    (hmt : p.mtype ≠ mt) : encodeVariant r mt p = .error .illegalOperation := by
  simp [encodeVariant, hfind, hmt]

theorem decodePayload_of_lt (r : Registry) (mt : BitVec 16) (b : Bytes) (e : Entry) (hfind : r.find mt = some e)
    (h : b.length < e.length) : decodePayload r mt b = .error .payloadLengthMismatch := by
  simp [decodePayload, hfind, h]

/-- Settles O37: the dispatcher's result for the entry of the code, contract by contract. -/
theorem messageRowsRunTheirContract : Obligations.MessageRowsRunTheirContract := by
  rintro i _ hi s e hvalid he rfl
  have hfind : s.registry.find e.mtype = some e := find_of_mem s.registry (nodup_of_valid _ hvalid) e he
  rw [exec_of_messageCode i e.mtype s hi]
  refine ⟨fun hc => ?lookup, fun hc hmt hrec => ?image, fun hc hother => ?refused, fun hc hlen => ?short,
    fun hc hlen => ?decoded⟩
  case lookup =>
    have hlength : lookupLength s.registry e.mtype = .ok e.length := (lookupLength_ok ..).mpr ⟨e, hfind, rfl⟩
    rw [variantResult_lookup _ s hc, hlength]
    rfl
  case image =>
    rw [← hmt] at hfind
    rw [variantResult_encode _ s hc, ← hmt, encodeVariant_of_tag, encodePayload_of_recordOf _ _ e hvalid hfind hrec]
    rfl
  case refused =>
    have hrefused : encodeVariant s.registry e.mtype s.pld = .error .illegalOperation := by
      by_cases hmt : s.pld.mtype = e.mtype
      · rw [← hmt] at hfind
        rw [← hmt, encodeVariant_of_tag]
        exact encodePayload_of_not_recordOf _ _ e hfind (hother.resolve_left (not_not_intro hmt))
      · exact encodeVariant_of_other_tag _ _ _ e hfind hmt
    rw [variantResult_encode _ s hc, hrefused]
    rfl
  case short =>
    rw [variantResult_decode _ s hc, decodePayload_of_lt _ _ _ e hfind hlen]
    rfl
  case decoded =>
    have hdecode := (decodePayload_ok s.registry e.mtype s.ibuf _).mpr ⟨e, hfind, hlen, rfl⟩
    refine ⟨⟨e.mtype, decodeFields e.layout s.ibuf⟩, ?_, ?_⟩
    · rw [variantResult_decode _ s hc, hdecode]
      rfl
    · rw [exec, execDecPld, hdecode]
      rfl

end Sys2Proof

/-! ## Header fields on the wire (30_encoding.md R101, R102, R121) and unregistered types (30_encoding.md R108)

A pseudo-instruction reads bits of the word at offset 2 or of byte 22 of an encoded header (`extractField_headerWord`,
`extractField_flagsByte`). A buffer whose header passes the checks decodes to the fields that stand in it
(`decodeHeader_of_headerPasses`), whatever its message type. -/

namespace Sys2Proof

open Machine Statement

/-! ### The bit-field words of an encoded header -/

/-- Reading a value that a write of bytes does not touch. -/
theorem memRead_bytesWrite_disjoint (b : Bytes) (o : Nat) (vs : Bytes) (p m : Nat) (h : p + m ≤ o ∨ o + vs.length ≤ p) :
    memRead (bytesWrite b o vs) p m = memRead b p m := by
  rw [memRead, memRead, bytesRead_bytesWrite_disjoint b o vs p m h]

/-- `W2` stands at offset 2 of an encoded header (R101). -/
theorem memRead_encodeHeader_word (h : Header) : memRead (encodeHeader h) 2 2 = (headerWord h).toNat := by
  have hlt : (headerWord h).toNat < 256 ^ 2 := (headerWord h).isLt
  simp (disch := omega) only [encodeHeader, memRead_memWrite_disjoint, memRead_bytesWrite_disjoint]
  rw [memRead_memWrite _ _ _ _ (by simp [Config.headerLen]), Nat.mod_eq_of_lt hlt]

/-- The flags stand at offset 22 of an encoded header (R102). -/
theorem memRead_encodeHeader_flags (h : Header) : memRead (encodeHeader h) 22 1 = (flagsByte h).toNat := by
  have hlt : (flagsByte h).toNat < 256 ^ 1 := (flagsByte h).isLt
  simp (disch := omega) only [encodeHeader, memRead_memWrite_disjoint]
  rw [memRead_memWrite _ _ _ _ (by simp [Config.headerLen]), Nat.mod_eq_of_lt hlt]

theorem headerWord_toNat (h : Header) : (headerWord h).toNat =
    h.protocol.toNat + h.addressable.toNat * 2 ^ 12 + h.tagged.toNat * 2 ^ 13 + h.origin.toNat * 2 ^ 14 := by
  have hprotocol := h.protocol.isLt
  have haddressable := h.addressable.isLt
  have htagged := h.tagged.isLt
  have horigin := h.origin.isLt
  rw [headerWord, BitVec.toNat_ofNat]
  omega

theorem flagsByte_toNat (h : Header) : (flagsByte h).toNat = h.resRequired.toNat + h.ackRequired.toNat * 2 := by
  have hres := h.resRequired.isLt
  have hack := h.ackRequired.isLt
  rw [flagsByte, BitVec.toNat_ofNat]
  omega

/-- The four fields of `W2` (R101). -/
theorem extractField_headerWord (h : Header) :
    extractField (headerWord h).toNat 0 12 = h.protocol.toNat ∧
    extractField (headerWord h).toNat 12 1 = h.addressable.toNat ∧
    extractField (headerWord h).toNat 13 1 = h.tagged.toNat ∧
    extractField (headerWord h).toNat 14 2 = h.origin.toNat := by
  have hprotocol := h.protocol.isLt
  have haddressable := h.addressable.isLt
  have htagged := h.tagged.isLt
  have horigin := h.origin.isLt
  simp only [extractField, headerWord_toNat, Nat.shiftRight_eq_div_pow]
  omega

/-- The two flags of byte 22 (R102). -/
theorem extractField_flagsByte (h : Header) :
    extractField (flagsByte h).toNat 0 1 = h.resRequired.toNat ∧
    extractField (flagsByte h).toNat 1 1 = h.ackRequired.toNat := by
  have hres := h.resRequired.isLt
  have hack := h.ackRequired.isLt
  simp only [extractField, flagsByte_toNat, Nat.shiftRight_eq_div_pow]
  omega

/-- A legal bit-field read whose container of `c` bytes is in bounds answers the field (R149). -/
theorem readBits_of_le (b : Bytes) (o bitoff bitw c v : Nat) (hlegal : bitFieldLegal bitoff bitw = true)
    (hc : containerBytes bitoff bitw = c) (hfits : o + c ≤ b.length) (hv : extractField (memRead b o c) bitoff bitw = v) :
    readBits b o bitoff bitw = .ok v := by
  rw [readBits_eq, hlegal, if_neg (by decide), hc, if_pos hfits, hv]

/-- Each named field lies in a container that an encoded header holds (R121, R147). -/
theorem readBits_encodeHeader (h : Header) (f : HeaderBits) :
    readBits (encodeHeader h) (headerBitsPlace f).1.toNat (headerBitsPlace f).2.1.toNat (headerBitsPlace f).2.2.toNat =
      .ok (headerBitsValue h f) := by
  obtain ⟨hprotocol, haddressable, htagged, horigin⟩ := extractField_headerWord h
  obtain ⟨hres, hack⟩ := extractField_flagsByte h
  rw [← memRead_encodeHeader_word] at hprotocol haddressable htagged horigin
  rw [← memRead_encodeHeader_flags] at hres hack
  have hlen := encodeHeader_length h
  cases f with
  | protocol => exact readBits_of_le _ 2 0 12 2 _ rfl rfl (by omega) hprotocol
  | addressable => exact readBits_of_le _ 2 12 1 2 _ rfl rfl (by omega) haddressable
  | tagged => exact readBits_of_le _ 2 13 1 2 _ rfl rfl (by omega) htagged
  | origin => exact readBits_of_le _ 2 14 2 2 _ rfl rfl (by omega) horigin
  | resReq => exact readBits_of_le _ 22 0 1 1 _ rfl rfl (by omega) hres
  | ackReq => exact readBits_of_le _ 22 1 1 1 _ rfl rfl (by omega) hack

/-- Settles O21: the encoded header is the buffer of the read, which answers the named field. -/
theorem headerPseudoReadsSeeTheEncodedFields : Obligations.HeaderPseudoReadsSeeTheEncodedFields := by
  intro s f
  refine ⟨encodeHeader s.hdr, rfl, ?_⟩
  rw [pseudoRead, exec, execRdBits, readBits_encodeHeader]
  rfl

/-! ### A header that passes the checks -/

/-- A read of `n + 1` bytes is the first byte and, above it, the `n` bytes after it (R13, R63); bytes past the end count 0. -/
theorem memRead_succ (b : Bytes) (o n : Nat) : memRead b o (n + 1) = byteAt b o + 256 * memRead b (o + 1) n := by
  rw [memRead, Nat.add_comm n 1, bytesRead_append]
  by_cases ho : o < b.length
  · have hfirst : bytesRead b o 1 = [b[o]] := by rw [bytesRead, List.drop_eq_getElem_cons ho]; rfl
    simp [hfirst, byteAt, memRead, leValue, ho]
  · have hpast (p m : Nat) (hp : o ≤ p) : bytesRead b p m = [] := by
      rw [← List.length_eq_zero_iff, bytesRead_length]
      omega
    simp [hpast, memRead, byteAt, leValue, List.getElem?_eq_none (Nat.le_of_not_lt ho)]

/-- The statements' little-endian integer is the model's read (R13). -/
theorem leAt_eq_memRead (b : Bytes) (o n : Nat) : leAt b o n = memRead b o n := by
  induction n generalizing o with
  | zero => rfl
  | succ n ih =>
    have hshift (k : Nat) : byteAt b (o + (k + 1)) * 2 ^ (8 * (k + 1)) = 256 * (byteAt b (o + 1 + k) * 2 ^ (8 * k)) := by
      rw [show o + (k + 1) = o + 1 + k by omega]
      ring
    have htail : leAt b o (n + 1) = byteAt b o + 256 * leAt b (o + 1) n := by
      simp [leAt, List.range_succ_eq_map, Function.comp_def, hshift, List.sum_map_mul_left]
    rw [htail, ih, memRead_succ]

theorem memRead_two (b : Bytes) (o : Nat) : memRead b o 2 = byteAt b o + 256 * byteAt b (o + 1) := by
  rw [memRead_succ, memRead_succ]
  rfl

/-- The checks that the statements make on the bytes are the ones the decoder makes on the fields (R171, R172). -/
theorem headerFields_valid (b : Bytes) (h : HeaderPasses b) : (headerFields b).valid = true := by
  obtain ⟨⟨⟨-, horigin⟩, hprotocol⟩, hmin, hmax⟩ := h
  rw [leAt_eq_memRead] at hmin hmax
  have hword : memRead b 2 2 = byteAt b 2 + 256 * byteAt b 3 := memRead_two b 2
  have hlow : byteAt b 2 < 256 := (b.getD 2 0).isLt
  have hhigh : byteAt b 3 < 256 := (b.getD 3 0).isLt
  have ho : (headerFields b).origin = Config.originRequired := by
    apply BitVec.eq_of_toNat_eq
    simp only [headerFields, BitVec.extractLsb'_toNat, BitVec.toNat_ofNat, Nat.shiftRight_eq_div_pow]
    omega
  have hp : (headerFields b).protocol = Config.protocol := by
    apply BitVec.eq_of_toNat_eq
    simp only [headerFields, BitVec.extractLsb'_toNat, BitVec.toNat_ofNat, Nat.shiftRight_eq_div_pow]
    omega
  have hsize : (headerFields b).size.toNat = memRead b 0 2 := by
    simp only [headerFields, BitVec.toNat_ofNat]
    omega
  simp [Header.valid, ho, hp, hsize, Config.headerLen, Config.maxPacket, hmin, hmax]

theorem decodeHeader_of_headerPasses (b : Bytes) (h : HeaderPasses b) : decodeHeader b = .ok (headerFields b) :=
  (decodeHeader_ok b _).mpr ⟨h.1.1.1, rfl, headerFields_valid b h⟩

theorem headerFields_messageType (b : Bytes) (mt : BitVec 16) (h : leAt b 32 2 = mt.toNat) :
    (headerFields b).messageType = mt := by
  rw [leAt_eq_memRead] at h
  simp [headerFields, h]

/-! ### Unregistered types -/

/-- A permitted registry has no entry outside the catalog (R191 item 1). -/
theorem find_of_not_mem_catalog (r : Registry) (mt : BitVec 16) (hr : r.valid = true) (hmt : mt ∉ catalogCodes) :
    r.find mt = none := by
  rw [find_none_iff]
  rintro e he rfl
  simp only [Registry.valid, Registry.hasCatalog, Bool.and_eq_true, List.all_eq_true] at hr
  obtain ⟨⟨⟨⟨-, hcatalog⟩, -⟩, -⟩, -⟩ := hr
  exact hmt (List.contains_iff_mem.mp (hcatalog e.mtype (List.mem_map_of_mem he)))

section
variable (r : Registry) (mt : BitVec 16) (b : Bytes)

theorem lookupLength_of_find_none (h : r.find mt = none) : lookupLength r mt = .error .unknownMessageType := by
  simp [lookupLength, h]

theorem decodePayload_of_find_none (h : r.find mt = none) : decodePayload r mt b = .error .unknownMessageType := by
  simp [decodePayload, h]

/-- An unregistered type behind a good header ends the parse there (R261). -/
theorem parsePacket_of_find_none (hd : Header) (hb : decodeHeader b = .ok hd) (h : r.find hd.messageType = none) :
    parsePacket r b = .error .unknownMessageType := by
  simp [parsePacket, hb, parseBody, h]

end

/-- Settles O24: a permitted registry registers the catalog alone, and the header checks do not read the message type. -/
theorem unregisteredTypesAreRefusedButNotByTheHeader : Obligations.UnregisteredTypesAreRefusedButNotByTheHeader := by
  refine ⟨⟨by decide, rfl⟩, fun s mt hr hmt => ?_, fun s mt hpasses htype => ?_⟩
  · have hfind := find_of_not_mem_catalog s.registry mt hr hmt
    constructor
    · rw [exec, execLookup, lookupLength_of_find_none _ _ hfind]
      rfl
    · rw [exec, execDecPld, decodePayload_of_find_none _ _ _ hfind]
      rfl
  · have hdecode := decodeHeader_of_headerPasses s.ibuf hpasses
    have hmessage := headerFields_messageType s.ibuf mt htype
    refine ⟨⟨headerFields s.ibuf, ?_, hmessage⟩, fun hr hmt => ?_⟩
    · rw [exec, execDecHdr, hdecode]
      rfl
    · have hfind := find_of_not_mem_catalog s.registry mt hr hmt
      rw [exec, execParse, parsePacket_of_find_none _ _ _ hdecode (hmessage ▸ hfind)]
      rfl

end Sys2Proof

/-! ## The primitive codec (40_primitive_codec.md R130 to R152)

Both sides of an access are stated on the bits of the buffer: `wireBit_memRead` says which bits a read sees, `wireBit_memWrite` which
bits a write changes. A bit-field write then changes the bits of its field alone (`wireBit_fieldWritten`), and buffers of one length
with the same bits are equal (`eq_of_wireBit`), so writes to fields that do not meet commute. -/

namespace Sys2Proof

open Machine Statement

/-! ### The bits of a buffer -/

/-- The bits from byte `o` on are those of the buffer from position `8o` on (R63, R147). -/
theorem wireBit_eq_wireBit_zero (b : Bytes) (o j : Nat) : wireBit b o j = wireBit b 0 (8 * o + j) := by
  rw [wireBit, wireBit, show 0 + (8 * o + j) / 8 = o + j / 8 by omega, show (8 * o + j) % 8 = j % 8 by omega]

/-- Buffers of one length that hold the same bits are equal. -/
theorem eq_of_wireBit (a b : Bytes) (hlen : a.length = b.length) (hbits : ∀ p, wireBit a 0 p = wireBit b 0 p) : a = b := by
  refine List.ext_getElem hlen fun i ha hb => BitVec.eq_of_getLsbD_eq fun k hk => ?_
  have hbit := hbits (8 * i + k)
  rw [← wireBit_eq_wireBit_zero, ← wireBit_eq_wireBit_zero] at hbit
  simpa [wireBit, Nat.div_eq_of_lt hk, Nat.mod_eq_of_lt hk, ha, hb] using hbit

/-- The bits of a read of `n` bytes are the wire's (R63). -/
theorem wireBit_memRead (b : Bytes) (o n j : Nat) :
    (memRead b o n).testBit j = (decide (j < 8 * n) && wireBit b o j) :=
  memRead_testBit b o n j

/-- In bounds, the bytes of a write stand in the buffer and every other byte is kept (R130, R152). -/
theorem bytesWrite_getElem?_of_le (b : Bytes) (o : Nat) (vs : Bytes) (i : Nat) (hfits : o + vs.length ≤ b.length) :
    (bytesWrite b o vs)[i]? = if o ≤ i ∧ i < o + vs.length then vs[i - o]? else b[i]? := by
  by_cases hi : o ≤ i ∧ i < o + vs.length
  · rw [bytesWrite_getElem?, if_pos (by omega)]
  · rw [bytesWrite_frame b o vs i (by omega), if_neg hi]

/-- In bounds, a write of `n` bytes changes the bits of those bytes and no other (R63, R152). -/
theorem wireBit_memWrite (b : Bytes) (o n v p : Nat) (hfits : o + n ≤ b.length) :
    wireBit (memWrite b o n v) 0 p = if 8 * o ≤ p ∧ p < 8 * (o + n) then v.testBit (p - 8 * o) else wireBit b 0 p := by
  have hbyte := bytesWrite_getElem?_of_le b o (leBytes n v) (p / 8) (by rwa [leBytes_length])
  rw [leBytes_length] at hbyte
  simp only [wireBit, memWrite, Nat.zero_add, List.getD_eq_getElem?_getD, hbyte]
  by_cases hp : 8 * o ≤ p ∧ p < 8 * (o + n)
  · have hpos : p - 8 * o = p % 8 + 8 * (p / 8 - o) := by omega
    rw [if_pos hp, if_pos (by omega), leBytes_getElem?, if_pos (by omega), hpos, ← Nat.testBit_div_two_pow,
      Nat.pow_mul, Option.getD_some, BitVec.getLsbD_ofNat, decide_eq_true (Nat.mod_lt p (by decide)), Bool.true_and]
  · rw [if_neg hp, if_neg (by omega)]

/-! ### Scalar reads -/

/-- The operation reads `w` bytes at `OFF` and widens them to `RVAL` by `ext` (R132). -/
def IsScalarRead (op : BitVec 16 → Instr) (w : Nat) (ext : Nat → BitVec 64) : Prop :=
  ∀ (s : State) (off : BitVec 16),
    exec (op off) s = s.finish ((readField s.ibuf off.toNat w).map fun v => Outputs.okRval (ext v))

theorem IsScalarRead.exec_of_le {op : BitVec 16 → Instr} {w : Nat} {ext : Nat → BitVec 64} (h : IsScalarRead op w ext)
    (s : State) (off : BitVec 16) (hfits : off.toNat + w ≤ s.ibuf.length) :
    exec (op off) s = ends s (Outputs.okRval (ext (memRead s.ibuf off.toNat w))) := by
  rw [h, readField_eq, if_pos hfits, except_map_ok, finish_ok]

/-- A scalar read meets the statement of R133 to R138 when `ext` gives the bits of `RVAL` that the statement asks. -/
theorem IsScalarRead.readsScalar {op : BitVec 16 → Instr} {w : Nat} {ext : Nat → BitVec 64} (h : IsScalarRead op w ext)
    {bit : Bytes → Nat → Nat → Bool} (hbit : ∀ b o, ∀ j < 64, (ext (memRead b o w)).getLsbD j = bit b o j) :
    ReadsScalar op w bit := by
  refine fun s off => ⟨fun hfits => ⟨_, h.exec_of_le s off hfits, hbit s.ibuf off.toNat⟩, fun hpast => ?_⟩
  rw [h, readField_eq, if_neg (by omega), except_map_error, finish_error]

theorem zext64_getLsbD (v j : Nat) (hj : j < 64) : (zext64 v).getLsbD j = v.testBit j := by
  rw [zext64, BitVec.getLsbD_ofNat, decide_eq_true hj, Bool.true_and]

/-- A zero-extended read has the wire's bits below its width and zeros above (R132). -/
theorem zext64_memRead_getLsbD (w : Nat) (b : Bytes) (o j : Nat) (hj : j < 64) :
    (zext64 (memRead b o w)).getLsbD j = zeroExtended w b o j := by
  rw [zext64_getLsbD _ _ hj, wireBit_memRead, zeroExtended]

/-- A sign-extended read has the wire's bits below 15 and copies of bit 15 from there on (R132, R137). -/
theorem sext64_memRead_getLsbD (b : Bytes) (o j : Nat) (hj : j < 64) :
    (sext64 (memRead b o 2)).getLsbD j = signExtended16 b o j := by
  have hlow (i : Nat) (hi : i < 16) : (BitVec.ofNat 16 (memRead b o 2)).getLsbD i = wireBit b o i := by
    rw [BitVec.getLsbD_ofNat, wireBit_memRead, decide_eq_true hi, Bool.true_and, Bool.true_and]
  rw [sext64, BitVec.getLsbD_signExtend, decide_eq_true hj, Bool.true_and, signExtended16]
  split
  · next hlt => rw [hlow j hlt, Nat.min_eq_left (by omega)]
  · rw [BitVec.msb_eq_getLsbD_last, hlow 15 (by decide), Nat.min_eq_right (by omega)]

/-- Settles O8: five zero-extended reads, of the widths 1, 2, 4, 8 and 4. -/
theorem unsignedReadsAreLittleEndian : Obligations.UnsignedReadsAreLittleEndian := by
  refine ⟨?_, ?_, ?_, ?_, ?_⟩ <;> exact IsScalarRead.readsScalar (fun _ _ => rfl) (zext64_memRead_getLsbD _)

/-- Settles O9: the two-byte read with sign extension. -/
theorem signedReadSignExtends : Obligations.SignedReadSignExtends :=
  IsScalarRead.readsScalar (fun _ _ => rfl) sext64_memRead_getLsbD

/-! ### Scalar writes -/

/-- The operation writes the low `w` bytes of `VAL` at `OFF` (R130, R131). -/
def IsScalarWrite (op : BitVec 16 → Instr) (w : Nat) : Prop :=
  ∀ (s : State) (off : BitVec 16),
    exec (op off) s = s.finish ((writeField s.ibuf off.toNat w (truncVal (8 * w) s.val)).map Outputs.okObuf)

/-- Byte `k` of the truncated `VAL` is `VAL[8k+7:8k]` (R12, R13). -/
theorem leBytes_truncVal_getElem? (w k : Nat) (val : BitVec 64) (hk : k < w) :
    (leBytes w (truncVal (8 * w) val))[k]? = some (val.extractLsb' (8 * k) 8) := by
  rw [leBytes_getElem?, if_pos hk]
  congr 1
  apply BitVec.eq_of_getLsbD_eq
  intro i hi
  rw [BitVec.getLsbD_ofNat, BitVec.getLsbD_extractLsb', truncVal, show 256 ^ k = 2 ^ (8 * k) by rw [Nat.pow_mul],
    Nat.testBit_div_two_pow, Nat.testBit_mod_two_pow, BitVec.testBit_toNat, Nat.add_comm i,
    decide_eq_true hi, decide_eq_true (show 8 * k + i < 8 * w by omega), Bool.true_and]

/-- A scalar write meets the statement of R140 to R145. -/
theorem IsScalarWrite.writesScalar {op : BitVec 16 → Instr} {w : Nat} (h : IsScalarWrite op w) : WritesScalar op w := by
  refine fun s off => ⟨fun hfits => ?_, fun hpast => ?_⟩
  · refine ⟨memWrite s.ibuf off.toNat w (truncVal (8 * w) s.val), ?_, memWrite_length .., fun a => ?_⟩
    · rw [h, finish_writeField_of_le _ _ _ _ hfits]
    · rw [Memory.read, Memory.read, memWrite, bytesWrite_getElem?_of_le _ _ _ _ (by rwa [leBytes_length]), leBytes_length]
      split
      · exact leBytes_truncVal_getElem? w _ s.val (by omega)
      · rfl
  · rw [h, writeField_eq, if_neg (by omega), except_map_error, finish_error]

/-- Settles O11: six scalar writes, of the widths 1, 2, 4, 8, 2 and 4. -/
theorem scalarWritesReplaceOnlyTheirBytes : Obligations.ScalarWritesReplaceOnlyTheirBytes := by
  refine ⟨?_, ?_, ?_, ?_, ?_, ?_⟩ <;> exact IsScalarWrite.writesScalar fun _ _ => rfl

/-! ### Byte arrays -/

/-- Settles O10: in bounds, the bytes from `OFF` on (`bytesRead_getElem?`), and `N` of them. -/
theorem byteArrayReadCopiesInOrder : Obligations.ByteArrayReadCopiesInOrder := by
  refine fun s off n => ⟨fun hfits => ⟨bytesRead s.ibuf off.toNat n.toNat, ?_, ?_, fun k hk => ?_⟩, fun hpast => ?_⟩
  · rw [exec, execRdBytes, readBytes_eq, if_pos hfits, except_map_ok, finish_ok]
  · rw [bytesRead_length]
    omega
  · rw [bytesRead_getElem?, if_pos hk, Memory.read]
  · rw [exec, execRdBytes, readBytes_eq, if_neg (by omega), except_map_error, finish_error]

/-- Settles O12: the checks in the rule's order, then the write of `DATA` and its frame. -/
theorem byteArrayWriteReplacesOnlyItsBytes : Obligations.ByteArrayWriteReplacesOnlyItsBytes := by
  intro s off n
  simp only [exec, execWrBytes, writeBytes_eq]
  refine ⟨fun hdata => ?_, fun hdata hpast => ?_, fun hdata hfits => ?_⟩
  · rw [if_pos hdata, except_map_error, finish_error]
  · rw [if_neg (by omega), if_neg (by omega), except_map_error, finish_error]
  · refine ⟨bytesWrite s.ibuf off.toNat s.data, ?_, bytesWrite_length .., fun a => ?_⟩
    · rw [if_neg (by omega), if_pos hfits, except_map_ok, finish_ok]
    · rw [Memory.read, Memory.read, bytesWrite_getElem?_of_le _ _ _ _ (by rwa [hdata]), hdata]

/-! ### Bit fields -/

section
variable (off : BitVec 16) (bitoff : BitVec 4) (bitw : BitVec 5)

/-- The statements' legal operands are the model's (R147). -/
theorem bitFieldLegal_iff_legalField : bitFieldLegal bitoff.toNat bitw.toNat = true ↔ LegalField bitoff bitw :=
  bitFieldLegal_iff _ _

/-- The statements' container in bounds is the model's (R147). -/
theorem containerFits_iff (b : Bytes) :
    ContainerFits b off bitoff bitw ↔ off.toNat + containerBytes bitoff.toNat bitw.toNat ≤ b.length :=
  Iff.rfl

/-- The copy of `b` that a bit-field write of `val` answers (R150). -/
def fieldWritten (b : Bytes) (val : BitVec 64) : Bytes :=
  memWrite b off.toNat (containerBytes bitoff.toNat bitw.toNat)
    (insertField (memRead b off.toNat (containerBytes bitoff.toNat bitw.toNat)) bitoff.toNat bitw.toNat val)

theorem fieldWritten_length (b : Bytes) (val : BitVec 64) : (fieldWritten off bitoff bitw b val).length = b.length :=
  memWrite_length ..

/-- Both bit-field operations check their operands, then their container's bounds, and answer `x` when both hold (R147). -/
theorem finish_bitField {α : Type} (s : State) {r : Except Err α} {x : α} (f : α → Outputs)
    (hr : r = if bitFieldLegal bitoff.toNat bitw.toNat = false then .error .illegalOperation
      else if off.toNat + containerBytes bitoff.toNat bitw.toNat ≤ s.ibuf.length then .ok x else .error .outOfBounds) :
    (¬ LegalField bitoff bitw → s.finish (r.map f) = ends s (Outputs.error .illegalOperation)) ∧
    (LegalField bitoff bitw → ¬ ContainerFits s.ibuf off bitoff bitw →
      s.finish (r.map f) = ends s (Outputs.error .outOfBounds)) ∧
    (LegalField bitoff bitw → ContainerFits s.ibuf off bitoff bitw → s.finish (r.map f) = ends s (f x)) := by
  rw [← bitFieldLegal_iff_legalField, containerFits_iff, Bool.not_eq_true]
  refine ⟨fun hillegal => ?_, fun hlegal hpast => ?_, fun hlegal hfits => ?_⟩
  · rw [hr, if_pos hillegal, except_map_error, finish_error]
  · rw [hr, hlegal, if_neg (by decide), if_neg hpast, except_map_error, finish_error]
  · rw [hr, hlegal, if_neg (by decide), if_pos hfits, except_map_ok, finish_ok]

/-- The field that a bit-field read of `b` answers (R149). -/
def fieldRead (b : Bytes) : Nat :=
  extractField (memRead b off.toNat (containerBytes bitoff.toNat bitw.toNat)) bitoff.toNat bitw.toNat

theorem exec_rdBits_of_containerFits (s : State) (hlegal : LegalField bitoff bitw)
    (hfits : ContainerFits s.ibuf off bitoff bitw) :
    exec (.rdBits off bitoff bitw) s = ends s (Outputs.okRval (zext64 (fieldRead off bitoff bitw s.ibuf))) := by
  obtain ⟨-, -, hok⟩ := finish_bitField off bitoff bitw s (fun v => Outputs.okRval (zext64 v)) (readBits_eq ..)
  exact hok hlegal hfits

theorem exec_wrBits_of_containerFits (s : State) (hlegal : LegalField bitoff bitw)
    (hfits : ContainerFits s.ibuf off bitoff bitw) :
    exec (.wrBits off bitoff bitw) s = ends s (Outputs.okObuf (fieldWritten off bitoff bitw s.ibuf s.val)) := by
  obtain ⟨-, -, hok⟩ := finish_bitField off bitoff bitw s Outputs.okObuf (writeBits_eq ..)
  exact hok hlegal hfits

/-- A bit-field write changes the bits of its field and no other bit of the buffer (R148, R150). -/
theorem wireBit_fieldWritten (b : Bytes) (val : BitVec 64) (p : Nat) (hlegal : LegalField bitoff bitw)
    (hfits : ContainerFits b off bitoff bitw) :
    wireBit (fieldWritten off bitoff bitw b val) 0 p =
      if 8 * off.toNat + bitoff.toNat ≤ p ∧ p < 8 * off.toNat + bitoff.toNat + bitw.toNat then
        val.getLsbD (p - (8 * off.toNat + bitoff.toNat))
      else wireBit b 0 p := by
  obtain ⟨-, hsmall, hholds⟩ := containerBytes_bounds _ _ ((bitFieldLegal_iff_legalField ..).mpr hlegal)
  obtain ⟨-, -, hend⟩ := hlegal
  rw [fieldWritten, wireBit_memWrite (hfits := (containerFits_iff ..).mp hfits)]
  by_cases hcontainer : 8 * off.toNat ≤ p ∧ p < 8 * (off.toNat + containerBytes bitoff.toNat bitw.toNat)
  · rw [if_pos hcontainer, insertField_testBit _ _ _ _ hend _ (by omega)]
    split
    · rw [if_pos (by omega), Nat.sub_sub]
    · have hpos : 8 * off.toNat + (p - 8 * off.toNat) = p := by omega
      rw [if_neg (by omega), wireBit_memRead, decide_eq_true (by omega), Bool.true_and, wireBit_eq_wireBit_zero, hpos]
  · rw [if_neg hcontainer, if_neg (by omega)]

/-- The bits of the field of a container, and zeros above (R149). -/
theorem extractField_testBit (w bo bw j : Nat) : (extractField w bo bw).testBit j = (decide (j < bw) && w.testBit (bo + j)) := by
  rw [extractField, Nat.testBit_mod_two_pow, Nat.testBit_shiftRight]

/-- Bit `j` of the field that a legal bit-field read answers is bit `BITOFF + j` of the wire (R147, R149). -/
theorem zext64_fieldRead_getLsbD (b : Bytes) (j : Nat) (hlegal : LegalField bitoff bitw) (hj : j < 64) :
    (zext64 (fieldRead off bitoff bitw b)).getLsbD j =
      (decide (j < bitw.toNat) && wireBit b off.toNat (bitoff.toNat + j)) := by
  obtain ⟨-, -, hholds⟩ := containerBytes_bounds _ _ ((bitFieldLegal_iff_legalField ..).mpr hlegal)
  rw [zext64_getLsbD _ _ hj, fieldRead, extractField_testBit]
  by_cases hfield : j < bitw.toNat
  · rw [wireBit_memRead, decide_eq_true (show bitoff.toNat + j < _ by omega), Bool.true_and]
  · simp only [hfield, decide_false, Bool.false_and]

/-- A value that fits the field is read back from the written buffer (R151). -/
theorem zext64_fieldRead_fieldWritten (b : Bytes) (val : BitVec 64) (hlegal : LegalField bitoff bitw)
    (hfits : ContainerFits b off bitoff bitw) (hval : val.toNat < 2 ^ bitw.toNat) :
    zext64 (fieldRead off bitoff bitw (fieldWritten off bitoff bitw b val)) = val := by
  refine BitVec.eq_of_getLsbD_eq fun j hj => ?_
  rw [zext64_fieldRead_getLsbD (hlegal := hlegal) (hj := hj), wireBit_eq_wireBit_zero,
    wireBit_fieldWritten (hlegal := hlegal) (hfits := hfits)]
  by_cases hfield : j < bitw.toNat
  · rw [if_pos (by omega), decide_eq_true hfield, Bool.true_and, ← Nat.add_assoc, Nat.add_sub_cancel_left]
  · have hhigh : val.toNat < 2 ^ j := hval.trans_le (Nat.pow_le_pow_right (by decide) (by omega))
    rw [decide_eq_false hfield, Bool.false_and, ← BitVec.testBit_toNat, Nat.testBit_lt_two_pow hhigh]

end

/-- A bit-field write keeps every container in bounds. -/
theorem containerFits_fieldWritten {b : Bytes} {o₁ o₂ : BitVec 16} {bo₁ bo₂ : BitVec 4} {bw₁ bw₂ : BitVec 5} {val : BitVec 64}
    (h : ContainerFits b o₂ bo₂ bw₂) : ContainerFits (fieldWritten o₁ bo₁ bw₁ b val) o₂ bo₂ bw₂ := by
  rwa [ContainerFits, fieldWritten_length]

/-- Settles O13: the two checks are `finish_bitField`, the bits of the answer `zext64_fieldRead_getLsbD`. -/
theorem bitFieldReadExtractsTheField : Obligations.BitFieldReadExtractsTheField := by
  intro s off bitoff bitw
  obtain ⟨hillegal, hpast, -⟩ := finish_bitField off bitoff bitw s (fun v => Outputs.okRval (zext64 v)) (readBits_eq ..)
  exact ⟨hillegal, hpast, fun hlegal hfits => ⟨_, exec_rdBits_of_containerFits off bitoff bitw s hlegal hfits,
    fun j hj => zext64_fieldRead_getLsbD off bitoff bitw s.ibuf j hlegal hj⟩⟩

/-- Settles O14: the two checks are `finish_bitField`, the bits of the written copy `wireBit_fieldWritten`. -/
theorem bitFieldWriteReplacesOnlyTheField : Obligations.BitFieldWriteReplacesOnlyTheField := by
  intro s off bitoff bitw
  obtain ⟨hillegal, hpast, -⟩ := finish_bitField off bitoff bitw s Outputs.okObuf (writeBits_eq ..)
  exact ⟨hillegal, hpast, fun hlegal hfits => ⟨_, exec_wrBits_of_containerFits off bitoff bitw s hlegal hfits,
    fieldWritten_length .., fun p _ => wireBit_fieldWritten off bitoff bitw s.ibuf s.val p hlegal hfits⟩⟩

/-! ### Two bit-field writes -/

section
variable (b : Bytes) (o₁ o₂ : BitVec 16) (bo₁ bo₂ : BitVec 4) (bw₁ bw₂ : BitVec 5) (v₁ v₂ : BitVec 64)

/-- After two bit-field writes the later field holds its value, the earlier field its own outside that, and every other bit is
kept (R148). -/
theorem wireBit_fieldWritten_fieldWritten (p : Nat) (hlegal₁ : LegalField bo₁ bw₁) (hlegal₂ : LegalField bo₂ bw₂)
    (hfits₁ : ContainerFits b o₁ bo₁ bw₁) (hfits₂ : ContainerFits b o₂ bo₂ bw₂) :
    wireBit (fieldWritten o₁ bo₁ bw₁ (fieldWritten o₂ bo₂ bw₂ b v₂) v₁) 0 p =
      if 8 * o₁.toNat + bo₁.toNat ≤ p ∧ p < 8 * o₁.toNat + bo₁.toNat + bw₁.toNat then
        v₁.getLsbD (p - (8 * o₁.toNat + bo₁.toNat))
      else if 8 * o₂.toNat + bo₂.toNat ≤ p ∧ p < 8 * o₂.toNat + bo₂.toNat + bw₂.toNat then
        v₂.getLsbD (p - (8 * o₂.toNat + bo₂.toNat))
      else wireBit b 0 p := by
  rw [wireBit_fieldWritten (hlegal := hlegal₁) (hfits := containerFits_fieldWritten hfits₁),
    wireBit_fieldWritten (hlegal := hlegal₂) (hfits := hfits₂)]

/-- Bit-field writes to fields that do not meet commute (R148). -/
theorem fieldWritten_comm (hlegal₁ : LegalField bo₁ bw₁) (hlegal₂ : LegalField bo₂ bw₂)
    (hfits₁ : ContainerFits b o₁ bo₁ bw₁) (hfits₂ : ContainerFits b o₂ bo₂ bw₂)
    (hdisjoint : FieldsDisjoint o₁.toNat bo₁.toNat bw₁.toNat o₂.toNat bo₂.toNat bw₂.toNat) :
    fieldWritten o₁ bo₁ bw₁ (fieldWritten o₂ bo₂ bw₂ b v₂) v₁ = fieldWritten o₂ bo₂ bw₂ (fieldWritten o₁ bo₁ bw₁ b v₁) v₂ := by
  refine eq_of_wireBit _ _ (by simp only [fieldWritten_length]) fun p => ?_
  rw [wireBit_fieldWritten_fieldWritten b o₁ o₂ bo₁ bo₂ bw₁ bw₂ v₁ v₂ p hlegal₁ hlegal₂ hfits₁ hfits₂,
    wireBit_fieldWritten_fieldWritten b o₂ o₁ bo₂ bo₁ bw₂ bw₁ v₂ v₁ p hlegal₂ hlegal₁ hfits₂ hfits₁]
  unfold FieldsDisjoint at hdisjoint
  by_cases hfirst : 8 * o₁.toNat + bo₁.toNat ≤ p ∧ p < 8 * o₁.toNat + bo₁.toNat + bw₁.toNat
  · have hsecond : ¬ (8 * o₂.toNat + bo₂.toNat ≤ p ∧ p < 8 * o₂.toNat + bo₂.toNat + bw₂.toNat) := by omega
    simp only [if_pos hfirst, if_neg hsecond]
  · simp only [if_neg hfirst]

end

/-- Settles O15: the two orders end in one buffer (`fieldWritten_comm`), whose bits `wireBit_fieldWritten_fieldWritten` gives. -/
theorem bitFieldWritesComposeInAnyOrder : Obligations.BitFieldWritesComposeInAnyOrder := by
  intro s o₁ o₂ bo₁ bo₂ bw₁ bw₂ v₁ v₂ hlegal₁ hlegal₂ hfits₁ hfits₂ hdisjoint
  have hlater := exec_wrBits_of_containerFits o₂ bo₂ bw₂ { s with val := v₂, ibuf := fieldWritten o₁ bo₁ bw₁ s.ibuf v₁ }
    hlegal₂ (containerFits_fieldWritten hfits₂)
  rw [← fieldWritten_comm s.ibuf o₁ o₂ bo₁ bo₂ bw₁ bw₂ v₁ v₂ hlegal₁ hlegal₂ hfits₁ hfits₂ hdisjoint] at hlater
  refine ⟨_, _, _, exec_wrBits_of_containerFits o₁ bo₁ bw₁ { s with val := v₁ } hlegal₁ hfits₁, hlater,
    exec_wrBits_of_containerFits o₂ bo₂ bw₂ { s with val := v₂ } hlegal₂ hfits₂,
    exec_wrBits_of_containerFits o₁ bo₁ bw₁ { s with val := v₁, ibuf := _ } hlegal₁ (containerFits_fieldWritten hfits₁),
    by simp only [fieldWritten_length], fun p _ => ?_⟩
  exact wireBit_fieldWritten_fieldWritten s.ibuf o₁ o₂ bo₁ bo₂ bw₁ bw₂ v₁ v₂ p hlegal₁ hlegal₂ hfits₁ hfits₂

/-! ### Reading back what was written -/

/-- A scalar write and a scalar read of one width give `VAL` when widening the truncated `VAL` does (R151). -/
theorem IsScalarWrite.writeThenRead {wr rd : BitVec 16 → Instr} {w : Nat} {ext : Nat → BitVec 64} (hwr : IsScalarWrite wr w)
    (hrd : IsScalarRead rd w ext) (s : State) (off : BitVec 16) (hfits : off.toNat + w ≤ s.ibuf.length)
    (hext : ext (truncVal (8 * w) s.val) = s.val) : WriteThenRead (wr off) (rd off) s := by
  have hback : memRead (memWrite s.ibuf off.toNat w (truncVal (8 * w) s.val)) off.toNat w = truncVal (8 * w) s.val := by
    rw [memRead_memWrite _ _ _ _ hfits, Nat.mod_eq_of_lt]
    rw [truncVal, Nat.pow_mul]
    exact Nat.mod_lt _ (Nat.pow_pos (by decide))
  refine ⟨memWrite s.ibuf off.toNat w (truncVal (8 * w) s.val), ?_, ?_⟩
  · rw [hwr, finish_writeField_of_le _ _ _ _ hfits]
  · rw [hrd.exec_of_le _ off (by rwa [memWrite_length]), hback, hext]

theorem zext64_truncVal_of_lt (w : Nat) (val : BitVec 64) (h : val.toNat < 2 ^ w) : zext64 (truncVal w val) = val := by
  rw [truncVal, Nat.mod_eq_of_lt h, zext64, BitVec.ofNat_toNat, BitVec.setWidth_eq]

/-- An i16 is the sign extension of its low 16 bits (R137, R151). -/
theorem sext64_truncVal_of_i16 (val : BitVec 64) (hmin : -32768 ≤ val.toInt) (hmax : val.toInt ≤ 32767) :
    sext64 (truncVal 16 val) = val := by
  apply BitVec.eq_of_toInt_eq
  rw [sext64, BitVec.toInt_signExtend_of_le (by decide), truncVal]
  rw [BitVec.toInt_eq_toNat_cond] at hmin hmax ⊢
  rw [BitVec.toInt_eq_toNat_cond, BitVec.toNat_ofNat]
  have hlt := val.isLt
  split at hmin <;> omega

/-- Settles O16: a scalar write and read by the widening that undoes the truncation, a bit field by its bits. -/
theorem writeThenReadReturnsTheValue : Obligations.WriteThenReadReturnsTheValue := by
  intro s off
  have hzext {wr rd : BitVec 16 → Instr} {w : Nat} (hwr : IsScalarWrite wr w) (hrd : IsScalarRead rd w zext64)
      (hfits : off.toNat + w ≤ s.ibuf.length) (hval : s.val.toNat < 2 ^ (8 * w)) : WriteThenRead (wr off) (rd off) s :=
    hwr.writeThenRead hrd s off hfits (zext64_truncVal_of_lt (8 * w) s.val hval)
  have hi16 : IsScalarWrite .wrI16 2 := fun _ _ => rfl
  refine ⟨hzext (fun _ _ => rfl) fun _ _ => rfl, hzext (fun _ _ => rfl) fun _ _ => rfl, hzext (fun _ _ => rfl) fun _ _ => rfl,
    fun hfits => hzext (fun _ _ => rfl) (fun _ _ => rfl) hfits s.val.isLt, fun hfits hmin hmax => ?_,
    hzext (fun _ _ => rfl) fun _ _ => rfl, fun bitoff bitw hlegal hfits hval => ?_⟩
  · exact hi16.writeThenRead (fun _ _ => rfl) s off hfits (sext64_truncVal_of_i16 s.val hmin hmax)
  · refine ⟨_, exec_wrBits_of_containerFits off bitoff bitw s hlegal hfits, ?_⟩
    rw [exec_rdBits_of_containerFits off bitoff bitw _ hlegal (containerFits_fieldWritten hfits),
      zext64_fieldRead_fieldWritten off bitoff bitw s.ibuf s.val hlegal hfits hval]

end Sys2Proof

/-! ## The header codec (41_header.md R170 to R175)

`HeaderAt h b` says that the fields of `h` stand in `b` at their wire positions. One record does so, the one that the decoder reads
(`headerAt_iff`). The encoder writes its record to these positions (`headerAt_encodeHeader`), which gives the round trip, and no
position lies on a reserved bit (`HeaderAt.congr`). -/

namespace Sys2Proof

open Machine Statement

/-! ### The encoder writes the header's image -/

/-- Two writes of which the second starts where the first ends are one write of the bytes end to end. -/
theorem bytesWrite_adjacent (b : Bytes) (o o' : Nat) (x y : Bytes) (h : o' = o + x.length) :
    bytesWrite (bytesWrite b o x) o' y = bytesWrite b o (x ++ y) := by
  rw [h, bytesWrite_append]

/-- The two bytes of `W2`, lowest first (R101). -/
theorem leBytes_headerWord (h : Header) : leBytes 2 (headerWord h).toNat =
    [BitVec.ofNat 8 (h.protocol.toNat % 256),
      BitVec.ofNat 8 (h.protocol.toNat / 256 + 16 * h.addressable.toNat + 32 * h.tagged.toNat + 64 * h.origin.toNat)] := by
  have hprotocol := h.protocol.isLt
  simp only [leBytes, headerWord_toNat, List.cons.injEq, and_true]
  constructor
  · apply BitVec.eq_of_toNat_eq
    simp only [BitVec.toNat_ofNat]
    omega
  · congr 1
    omega

theorem leBytes_one_toNat (v : BitVec 8) : leBytes 1 v.toNat = [v] := by simp [leBytes]

/-- The encoder writes the fields end to end over zero bytes; the two that are left are the reserved ones (R103, R173). -/
theorem encodeHeader_eq_headerImage (h : Header) : encodeHeader h = headerImage h := by
  simp (disch := simp) only [encodeHeader, memWrite, bytesWrite_adjacent]
  refine (bytesWrite_zeroBytes [] _ Config.headerLen (by simp [Config.headerLen])).trans ?_
  simp only [leBytes_headerWord, leBytes_one_toNat]
  simp [headerImage, flagsByte, Nat.mul_comm 2, zeroBytes, Config.headerLen]

theorem headerImage_length (h : Header) : (headerImage h).length = 36 := by
  rw [← encodeHeader_eq_headerImage, encodeHeader_length]

/-- Settles O18: the encoder's buffer is the image, and the encoder has no check. -/
theorem encodeHeaderWritesTheWireFormat : Obligations.EncodeHeaderWritesTheWireFormat := by
  refine fun s => ⟨?_, headerImage_length s.hdr⟩
  rw [exec, execEncHdr, encodeHeader_eq_headerImage, finish_ok]

/-! ### The fields at their wire positions -/

theorem memRead_one (b : Bytes) (o : Nat) : memRead b o 1 = byteAt b o := by
  rw [memRead_succ]
  rfl

theorem memRead_lt (b : Bytes) (o n : Nat) : memRead b o n < 256 ^ n := by
  refine lt_of_lt_of_le (leValue_lt _) (Nat.pow_le_pow_right (by decide) ?_)
  rw [bytesRead_length]
  exact Nat.min_le_left _ _

/-- A field of `8n` bits holds a read of `n` bytes whole. -/
theorem toNat_ofNat_memRead (b : Bytes) (o n : Nat) : (BitVec.ofNat (8 * n) (memRead b o n)).toNat = leAt b o n := by
  rw [leAt_eq_memRead, BitVec.toNat_ofNat, Nat.pow_mul]
  exact Nat.mod_eq_of_lt (memRead_lt b o n)

theorem arrayField_getElem (b : Bytes) (o n : Nat) (k : Fin n) : ((arrayField b o n)[k]).toNat = byteAt b (o + k) := by
  simp [arrayField, byteAt]

/-- The record that the decoder reads stands in the buffer (R174). -/
theorem headerAt_headerFields (b : Bytes) : HeaderAt (headerFields b) b := by
  have hword : memRead b 2 2 = byteAt b 2 + 256 * byteAt b 3 := memRead_two b 2
  have hflags := memRead_one b 22
  have hlow : byteAt b 2 < 256 := (b.getD 2 0).isLt
  have hhigh : byteAt b 3 < 256 := (b.getD 3 0).isLt
  constructor
  case size => exact toNat_ofNat_memRead b 0 2
  case source => exact toNat_ofNat_memRead b 4 4
  case timestamp => exact toNat_ofNat_memRead b 24 8
  case messageType => exact toNat_ofNat_memRead b 32 2
  case target => exact arrayField_getElem b 8 8
  case siteId => exact arrayField_getElem b 16 6
  case sequence => exact (toNat_ofNat_memRead b 23 1).trans (by rw [leAt_eq_memRead, memRead_one])
  case protocol | addressable | tagged | origin | resRequired | ackRequired =>
    simp only [headerFields, BitVec.extractLsb'_toNat, BitVec.toNat_ofNat, Nat.shiftRight_eq_div_pow]
    omega

/-- The bytes at the wire positions fix every field of the record. -/
theorem Statement.HeaderAt.unique {h h' : Header} {b : Bytes} (hat : HeaderAt h b) (hat' : HeaderAt h' b) : h = h' := by
  have heq {n v : Nat} {x y : BitVec n} (hx : x.toNat = v) (hy : y.toNat = v) : x = y :=
    BitVec.eq_of_toNat_eq (hx.trans hy.symm)
  cases h
  cases h'
  rw [Header.mk.injEq]
  exact ⟨heq hat.size hat'.size, heq hat.protocol hat'.protocol, heq hat.addressable hat'.addressable,
    heq hat.tagged hat'.tagged, heq hat.origin hat'.origin, heq hat.source hat'.source,
    Vector.ext fun k hk => heq (hat.target ⟨k, hk⟩) (hat'.target ⟨k, hk⟩),
    Vector.ext fun k hk => heq (hat.siteId ⟨k, hk⟩) (hat'.siteId ⟨k, hk⟩),
    heq hat.resRequired hat'.resRequired, heq hat.ackRequired hat'.ackRequired, heq hat.sequence hat'.sequence,
    heq hat.timestamp hat'.timestamp, heq hat.messageType hat'.messageType⟩

theorem headerAt_iff (h : Header) (b : Bytes) : HeaderAt h b ↔ h = headerFields b :=
  ⟨fun hat => hat.unique (headerAt_headerFields b), fun heq => heq ▸ headerAt_headerFields b⟩

/-! ### The checks of the decoder -/

theorem headerFields_origin_eq (b : Bytes) : (headerFields b).origin = Config.originRequired ↔ byteAt b 3 / 64 = 0 := by
  rw [← BitVec.toNat_inj, (headerAt_headerFields b).origin]
  rfl

theorem headerFields_protocol_eq (b : Bytes) :
    (headerFields b).protocol = Config.protocol ↔ byteAt b 2 + 256 * (byteAt b 3 % 16) = 1024 := by
  rw [← BitVec.toNat_inj, (headerAt_headerFields b).protocol]
  rfl

/-- The checks on the buffer's bytes, in the order of R172. -/
theorem decodeHeader_eq (b : Bytes) : decodeHeader b =
    if b.length < 36 then .error .malformedHeader
    else if byteAt b 3 / 64 ≠ 0 then .error .malformedHeader
    else if byteAt b 2 + 256 * (byteAt b 3 % 16) ≠ 1024 then .error .unsupportedProtocol
    else if leAt b 0 2 < 36 ∨ 128 < leAt b 0 2 then .error .invalidSize
    else .ok (headerFields b) := by
  simp only [decodeHeader, checkHeader, ne_eq, headerFields_origin_eq, headerFields_protocol_eq,
    (headerAt_headerFields b).size]

/-- DEC_HDR drives the decoded header, or ends with the decoder's error (R174). -/
theorem exec_decHdr (s : State) : exec .decHdr s = ends s (outputsOf ((decodeHeader s.ibuf).map Outputs.okOhdr)) := by
  rw [exec, execDecHdr, finish_eq]

/-- Settles O19: each error clause selects its branch of `decodeHeader_eq`, and past the checks the fields are those at their
places. -/
theorem decodeHeaderChecksThenReadsTheFields : Obligations.DecodeHeaderChecksThenReadsTheFields := by
  intro s
  rw [HeaderErrors, exec_decHdr]
  refine ⟨⟨fun hshort => ?_, fun hlen horigin => ?_, fun ⟨hlen, horigin⟩ hprotocol => ?_,
    fun ⟨⟨hlen, horigin⟩, hprotocol⟩ hsize => ?_⟩, fun hpasses => ⟨headerFields s.ibuf, ?_, headerAt_headerFields s.ibuf⟩⟩
  · rw [decodeHeader_eq, if_pos hshort, except_map_error, outputsOf_error]
  · rw [decodeHeader_eq, if_neg (by omega), if_pos horigin, except_map_error, outputsOf_error]
  · rw [decodeHeader_eq, if_neg (by omega), if_neg (by omega), if_pos hprotocol, except_map_error, outputsOf_error]
  · rw [decodeHeader_eq, if_neg (by omega), if_neg (by omega), if_neg (by omega), if_pos hsize, except_map_error,
      outputsOf_error]
  · rw [decodeHeader_of_headerPasses _ hpasses, except_map_ok, outputsOf_ok]

/-! ### The round trip -/

theorem leAt_congr (b b' : Bytes) (o n : Nat) (h : ∀ k < n, byteAt b (o + k) = byteAt b' (o + k)) :
    leAt b o n = leAt b' o n := by
  refine congrArg List.sum (List.map_congr_left fun k hk => ?_)
  rw [h k (List.mem_range.mp hk)]

/-- Buffers that agree on the bytes 0 to 33, but for the reserved bits of byte 22, hold the same fields (R175). -/
theorem Statement.HeaderAt.congr {h : Header} {b b' : Bytes} (hat : HeaderAt h b)
    (hbytes : ∀ k < 34, k ≠ 22 → byteAt b' k = byteAt b k) (hflags : byteAt b' 22 % 4 = byteAt b 22 % 4) :
    HeaderAt h b' := by
  have hle (o n : Nat) (hend : o + n ≤ 34) (hout : o + n ≤ 22 ∨ 23 ≤ o) : leAt b' o n = leAt b o n :=
    leAt_congr b' b o n fun k hk => hbytes (o + k) (by omega) (by omega)
  have hbyte2 := hbytes 2 (by decide) (by decide)
  have hbyte3 := hbytes 3 (by decide) (by decide)
  constructor
  case size => rw [hle 0 2 (by decide) (by decide), hat.size]
  case protocol => rw [hbyte2, hbyte3, hat.protocol]
  case addressable => rw [hbyte3, hat.addressable]
  case tagged => rw [hbyte3, hat.tagged]
  case origin => rw [hbyte3, hat.origin]
  case source => rw [hle 4 4 (by decide) (by decide), hat.source]
  case target => exact fun k => (hat.target k).trans (hbytes (8 + k) (by omega) (by omega)).symm
  case siteId => exact fun k => (hat.siteId k).trans (hbytes (16 + k) (by omega) (by omega)).symm
  case resRequired => rw [hat.resRequired]; omega
  case ackRequired => rw [hat.ackRequired]; omega
  case sequence => rw [hbytes 23 (by decide) (by decide), hat.sequence]
  case timestamp => rw [hle 24 8 (by decide) (by decide), hat.timestamp]
  case messageType => rw [hle 32 2 (by decide) (by decide), hat.messageType]

/-- A read of `n` bytes gives the bytes at the `n` offsets, in order (R65). -/
theorem byteAt_of_bytesRead_eq {n : Nat} (b : Bytes) (o : Nat) (v : Vector Byte n) (h : bytesRead b o n = v.toList)
    (k : Fin n) : (v[k]).toNat = byteAt b (o + k) := by
  have hread := bytesRead_getElem? b o n k
  rw [if_pos k.isLt, h] at hread
  simp [byteAt, List.getD_eq_getElem?_getD, ← hread]

/-- A value of exactly `n` bytes is read back whole. -/
theorem memRead_memWrite_toNat {w : Nat} (b : Bytes) (o n : Nat) (v : BitVec w) (hw : w = 8 * n) (hfits : o + n ≤ b.length) :
    memRead (memWrite b o n v.toNat) o n = v.toNat := by
  have hlt : v.toNat < 256 ^ n := lt_of_lt_of_eq v.isLt (by rw [hw, Nat.pow_mul])
  rw [memRead_memWrite _ _ _ _ hfits, Nat.mod_eq_of_lt hlt]

/-- The scalar fields stand in the encoded header at their offsets, each kept by the writes after it (R100, R173). -/
theorem memRead_encodeHeader (h : Header) :
    memRead (encodeHeader h) 0 2 = h.size.toNat ∧ memRead (encodeHeader h) 4 4 = h.source.toNat ∧
    memRead (encodeHeader h) 23 1 = h.sequence.toNat ∧ memRead (encodeHeader h) 24 8 = h.timestamp.toNat ∧
    memRead (encodeHeader h) 32 2 = h.messageType.toNat := by
  simp (disch := simp [Config.headerLen]) only [encodeHeader, memRead_memWrite_disjoint, memRead_bytesWrite_disjoint,
    memRead_memWrite_toNat, and_self]

/-- The byte arrays stand in the encoded header at their offsets (R100, R173). -/
theorem bytesRead_encodeHeader (h : Header) :
    bytesRead (encodeHeader h) 8 8 = h.target.toList ∧ bytesRead (encodeHeader h) 16 6 = h.siteId.toList := by
  simp (disch := simp [Config.headerLen]) only [encodeHeader, memWrite, bytesRead_bytesWrite_disjoint]
  constructor
  · simpa using bytesRead_bytesWrite _ 8 h.target.toList (by simp [Config.headerLen])
  · simpa using bytesRead_bytesWrite _ 16 h.siteId.toList (by simp [Config.headerLen])

/-- The encoder writes each field to its wire position (R173). -/
theorem headerAt_encodeHeader (h : Header) : HeaderAt h (encodeHeader h) := by
  obtain ⟨hsize, hsource, hsequence, htimestamp, hmessageType⟩ := memRead_encodeHeader h
  obtain ⟨htarget, hsiteId⟩ := bytesRead_encodeHeader h
  have hword : byteAt (encodeHeader h) 2 + 256 * byteAt (encodeHeader h) 3 = _ :=
    (memRead_two _ 2).symm.trans ((memRead_encodeHeader_word h).trans (headerWord_toNat h))
  have hflags : byteAt (encodeHeader h) 22 = _ :=
    (memRead_one _ 22).symm.trans ((memRead_encodeHeader_flags h).trans (flagsByte_toNat h))
  have hlow : byteAt (encodeHeader h) 2 < 256 := ((encodeHeader h).getD 2 0).isLt
  have hprotocol := h.protocol.isLt
  have haddressable := h.addressable.isLt
  have htagged := h.tagged.isLt
  have hres := h.resRequired.isLt
  have hack := h.ackRequired.isLt
  constructor
  case size => rw [leAt_eq_memRead, hsize]
  case source => rw [leAt_eq_memRead, hsource]
  case sequence => rw [← memRead_one, hsequence]
  case timestamp => rw [leAt_eq_memRead, htimestamp]
  case messageType => rw [leAt_eq_memRead, hmessageType]
  case target => exact byteAt_of_bytesRead_eq _ 8 h.target htarget
  case siteId => exact byteAt_of_bytesRead_eq _ 16 h.siteId hsiteId
  case protocol | addressable | tagged | origin | resRequired | ackRequired => omega

/-- Settles O20: the fields read back from their positions are the header's, and buffers that agree on the positions decode
alike. -/
theorem headerRoundTripIgnoresReservedBits : Obligations.HeaderRoundTripIgnoresReservedBits := by
  refine ⟨fun s hvalid => ⟨encodeHeader s.hdr, rfl, ?_⟩, fun s b hs hb hbytes hflags => ?_⟩
  · have hfields := (headerAt_iff s.hdr _).mp (headerAt_encodeHeader s.hdr)
    have hdecode : decodeHeader (encodeHeader s.hdr) = .ok s.hdr :=
      (decodeHeader_ok _ _).mpr ⟨(encodeHeader_length s.hdr).ge, hfields, hvalid⟩
    rw [exec_decHdr, hdecode, except_map_ok, outputsOf_ok]
  · have hfields := (headerAt_iff _ b).mp ((headerAt_headerFields s.ibuf).congr hbytes hflags)
    have hdecode : decodeHeader b = decodeHeader s.ibuf := by
      rw [decodeHeader, decodeHeader, hfields, if_neg (Nat.not_lt.mpr hb), if_neg (Nat.not_lt.mpr hs)]
    exact ⟨_, exec_decHdr s, by rw [exec_decHdr, hdecode]⟩

end Sys2Proof

/-! ## The registry and the payload codec (42_payload_registry.md R190 to R245)

A value of a kind is the bytes of its field: `valueImage_of_decodeValue` and `decodeValue_of_bytesRead` are the two directions for
one field, and induction over a tiled layout carries them to records (`layoutImage_decodeFields`, `decodeFields_layoutImage`). A
type of the default registry then needs no more than its layout (`codesAs_of_layout`). -/

namespace Sys2Proof

open Machine Statement

/-! ### The three commands on a registered type and on any other -/

section
variable {s : State} {mt : BitVec 16} {e : Entry}

/-- LOOKUP drives the registered length, or ends with the error of the lookup (R240). -/
theorem exec_lookup (mt : BitVec 16) (s : State) :
    exec (.lookup mt) s = ends s (outputsOf ((lookupLength s.registry mt).map Outputs.okOlen)) := by
  rw [exec, execLookup, finish_eq]

/-- ENC_PLD drives the encoded payload, or ends with the encoder's error (R241). -/
theorem exec_encPld (s : State) :
    exec .encPld s = ends s (outputsOf ((encodePayload s.registry s.pld).map Outputs.okObuf)) := by
  rw [exec, execEncPld, finish_eq]

/-- DEC_PLD drives the decoded record, or ends with the decoder's error (R242). -/
theorem exec_decPld (mt : BitVec 16) (s : State) :
    exec (.decPld mt) s = ends s (outputsOf ((decodePayload s.registry mt s.ibuf).map Outputs.okOpld)) := by
  rw [exec, execDecPld, finish_eq]

theorem lookupLength_of_find {r : Registry} (hfind : r.find mt = some e) : lookupLength r mt = .ok e.length :=
  (lookupLength_ok r mt e.length).mpr ⟨e, hfind, rfl⟩

theorem exec_lookup_of_find (hfind : s.registry.find mt = some e) :
    exec (.lookup mt) s = ends s (Outputs.okOlen e.length) := by
  rw [exec_lookup, lookupLength_of_find hfind, except_map_ok, outputsOf_ok]

theorem exec_lookup_of_find_none (hfind : s.registry.find mt = none) :
    exec (.lookup mt) s = ends s (Outputs.error .unknownMessageType) := by
  rw [exec_lookup, lookupLength_of_find_none _ _ hfind, except_map_error, outputsOf_error]

theorem exec_encPld_of_recordOf (hvalid : s.registry.valid = true) (hfind : s.registry.find s.pld.mtype = some e)
    (hrec : RecordOf e.layout s.pld.fields) :
    exec .encPld s = ends s (Outputs.okObuf (layoutImage e.layout s.pld.fields)) := by
  rw [exec_encPld, encodePayload_of_recordOf _ _ e hvalid hfind hrec, except_map_ok, outputsOf_ok]

theorem exec_encPld_of_not_recordOf (hfind : s.registry.find s.pld.mtype = some e)
    (hrec : ¬ RecordOf e.layout s.pld.fields) : exec .encPld s = ends s (Outputs.error .illegalOperation) := by
  rw [exec_encPld, encodePayload_of_not_recordOf _ _ e hfind hrec, except_map_error, outputsOf_error]

theorem encodePayload_of_find_none (r : Registry) (p : Payload) (hfind : r.find p.mtype = none) :
    encodePayload r p = .error .unknownMessageType := by
  simp [encodePayload, hfind]

theorem exec_encPld_of_find_none (hfind : s.registry.find s.pld.mtype = none) :
    exec .encPld s = ends s (Outputs.error .unknownMessageType) := by
  rw [exec_encPld, encodePayload_of_find_none _ _ hfind, except_map_error, outputsOf_error]

theorem exec_decPld_of_le (hfind : s.registry.find mt = some e) (hlen : e.length ≤ s.ibuf.length) :
    exec (.decPld mt) s = ends s (Outputs.okOpld ⟨mt, decodeFields e.layout s.ibuf⟩) := by
  rw [exec_decPld, (decodePayload_ok _ mt _ _).mpr ⟨e, hfind, hlen, rfl⟩, except_map_ok, outputsOf_ok]

theorem exec_decPld_of_lt (hfind : s.registry.find mt = some e) (hlen : s.ibuf.length < e.length) :
    exec (.decPld mt) s = ends s (Outputs.error .payloadLengthMismatch) := by
  rw [exec_decPld, decodePayload_of_lt _ mt _ e hfind hlen, except_map_error, outputsOf_error]

theorem exec_decPld_of_find_none (hfind : s.registry.find mt = none) :
    exec (.decPld mt) s = ends s (Outputs.error .unknownMessageType) := by
  rw [exec_decPld, decodePayload_of_find_none _ mt _ hfind, except_map_error, outputsOf_error]

end

/-! ### One field, written and read back (R192, R239) -/

/-- The bytes of a field that holds a read whole are the bytes read (R63). -/
theorem leBytes_ofNat_memRead (b : Bytes) (o n : Nat) (hfits : o + n ≤ b.length) :
    leBytes n (BitVec.ofNat (8 * n) (memRead b o n)).toNat = bytesRead b o n := by
  have hlen : (bytesRead b o n).length = n := by
    rw [bytesRead_length]
    omega
  have hbytes := leBytes_leValue (bytesRead b o n)
  rw [hlen] at hbytes
  rw [toNat_ofNat_memRead, leAt_eq_memRead, memRead, hbytes]

/-- A field reads back the value whose bytes stand there (R63). -/
theorem ofNat_memRead_of_bytesRead {n : Nat} (b : Bytes) (o : Nat) (v : BitVec (8 * n))
    (hread : bytesRead b o n = leBytes n v.toNat) : BitVec.ofNat (8 * n) (memRead b o n) = v := by
  have hlt : v.toNat < 256 ^ n := lt_of_lt_of_eq v.isLt (Nat.pow_mul 2 8 n)
  rw [memRead, hread, leValue_leBytes, Nat.mod_eq_of_lt hlt, BitVec.ofNat_toNat, BitVec.setWidth_eq]

/-- The 8 bytes of an HSBK are its four words' (R239). -/
theorem bytesRead_hsbk (b : Bytes) (o : Nat) :
    bytesRead b o 8 = bytesRead b o 2 ++ bytesRead b (o + 2) 2 ++ bytesRead b (o + 4) 2 ++ bytesRead b (o + 6) 2 := by
  rw [show 8 = 2 + 2 + 2 + 2 from rfl, bytesRead_append, bytesRead_append, bytesRead_append]

/-- The image of a value read from a field is the bytes of the field (R192). -/
theorem valueImage_of_decodeValue (b : Bytes) (o : Nat) (k : Kind) (v : Value) (hv : decodeValue b o k = some v)
    (hfits : o + k.size ≤ b.length) : valueImage v = bytesRead b o k.size := by
  cases k with
  | reserved n => cases hv
  | bytes n => cases hv; rfl
  | u8 => cases hv; exact leBytes_ofNat_memRead b o 1 hfits
  | u16 | i16 => cases hv; exact leBytes_ofNat_memRead b o 2 hfits
  | u32 | f32 => cases hv; exact leBytes_ofNat_memRead b o 4 hfits
  | u64 => cases hv; exact leBytes_ofNat_memRead b o 8 hfits
  | hsbk =>
    cases hv
    simp only [Kind.size, Config.hsbkLen] at hfits
    have hword (p : Nat) (hp : p ≤ o + 6) : leBytes 2 (BitVec.ofNat 16 (memRead b p 2)).toNat = bytesRead b p 2 :=
      leBytes_ofNat_memRead b p 2 (by omega)
    rw [Kind.size, bytesRead_hsbk, valueImage, decodeHsbk, hword o (by omega), hword (o + 2) (by omega),
      hword (o + 4) (by omega), hword (o + 6) (by omega)]

/-- The HSBK read from its own bytes (R239). -/
theorem decodeHsbk_of_bytesRead (b : Bytes) (o : Nat) (c : Hsbk) (hread : bytesRead b o 8 = valueImage (.hsbk c)) :
    decodeHsbk b o = c := by
  have hlen := congrArg List.length hread
  simp only [bytesRead_length, valueImage, List.length_append, leBytes_length] at hlen
  have hword (p : Nat) (hp : p ≤ o + 6) : (bytesRead b p 2).length = 2 := by
    rw [bytesRead_length]
    omega
  rw [bytesRead_hsbk, valueImage] at hread
  obtain ⟨hread, hkelvin⟩ := List.append_inj' hread (by rw [hword _ (by omega), leBytes_length])
  obtain ⟨hread, hbrightness⟩ := List.append_inj' hread (by rw [hword _ (by omega), leBytes_length])
  obtain ⟨hhue, hsaturation⟩ := List.append_inj' hread (by rw [hword _ (by omega), leBytes_length])
  rw [decodeHsbk, Hsbk.mk.injEq]
  exact ⟨ofNat_memRead_of_bytesRead (n := 2) b o _ hhue, ofNat_memRead_of_bytesRead (n := 2) b (o + 2) _ hsaturation,
    ofNat_memRead_of_bytesRead (n := 2) b (o + 4) _ hbrightness, ofNat_memRead_of_bytesRead (n := 2) b (o + 6) _ hkelvin⟩

/-- A field that holds the image of a value of its kind reads back that value (R192). -/
theorem decodeValue_of_bytesRead (b : Bytes) (o : Nat) (k : Kind) (v : Value) (hkind : v.hasKind k = true)
    (hread : bytesRead b o k.size = valueImage v) : decodeValue b o k = some v := by
  unfold Value.hasKind at hkind
  split at hkind
  case h_1 => exact congrArg (some ∘ Value.u8) (ofNat_memRead_of_bytesRead (n := 1) b o _ hread)
  case h_2 => exact congrArg (some ∘ Value.u16) (ofNat_memRead_of_bytesRead (n := 2) b o _ hread)
  case h_3 => exact congrArg (some ∘ Value.i16) (ofNat_memRead_of_bytesRead (n := 2) b o _ hread)
  case h_4 => exact congrArg (some ∘ Value.u32) (ofNat_memRead_of_bytesRead (n := 4) b o _ hread)
  case h_5 => exact congrArg (some ∘ Value.f32) (ofNat_memRead_of_bytesRead (n := 4) b o _ hread)
  case h_6 => exact congrArg (some ∘ Value.u64) (ofNat_memRead_of_bytesRead (n := 8) b o _ hread)
  case h_7 => exact congrArg (some ∘ Value.bytes) hread
  case h_8 => exact congrArg (some ∘ Value.hsbk) (decodeHsbk_of_bytesRead b o _ hread)
  case h_9 => cases hkind

/-- Settles O28: the write is one write of the image, and an HSBK is read back from its own bytes. -/
theorem hsbkIsFourLittleEndianWords : Obligations.HsbkIsFourLittleEndianWords := by
  intro b o c hfits
  have hwrite : encodeHsbk b o c = bytesWrite b o (valueImage (.hsbk c)) := encodeValue_eq_bytesWrite b o (.hsbk c)
  have hlen : (valueImage (.hsbk c)).length = 8 := valueImage_length _ .hsbk rfl
  refine ⟨encodeHsbk_length b o c, fun a => ?frame, decodeHsbk_of_bytesRead _ o c ?image,
    toNat_ofNat_memRead b o 2, toNat_ofNat_memRead b (o + 2) 2, toNat_ofNat_memRead b (o + 4) 2,
    toNat_ofNat_memRead b (o + 6) 2⟩
  case frame => rw [Memory.read, Memory.read, hwrite, bytesWrite_getElem?_of_le _ _ _ _ (by rwa [hlen]), hlen]
  case image => simpa only [hwrite, hlen] using bytesRead_bytesWrite b o (valueImage (.hsbk c)) (by rwa [hlen])

/-! ### A record, written and read back (R241 to R243) -/

/-- The image of a record fills its layout (R244). -/
theorem layoutImage_length (layout : List Field) (vs : List (FieldName × Value)) (n : Nat)
    (ht : layoutTiles 0 n layout = true) (hr : RecordOf layout vs) : (layoutImage layout vs).length = n := by
  have himage := encodeFields_append layout vs [] n (by simpa using ht) hr
  simpa using (congrArg List.length himage).symm

/-- A record is read back from its image, whatever stands before and after it (R193, R243). -/
theorem decodeFields_layoutImage (layout : List Field) (vs : List (FieldName × Value)) (p tail : Bytes) (n : Nat)
    (ht : layoutTiles p.length n layout = true) (hr : RecordOf layout vs) :
    decodeFields layout (p ++ layoutImage layout vs ++ tail) = vs := by
  induction layout generalizing vs p with
  | nil => exact ((recordOf_nil vs).mp hr).symm
  | cons f fs ih =>
    simp only [layoutTiles, Bool.and_eq_true, beq_iff_eq] at ht
    obtain ⟨hoff, hrest⟩ := ht
    -- once the bytes `q` of the first field are passed, the rest of the layout is read after them
    have hnext (q : Bytes) (vs : List (FieldName × Value)) (hq : q.length = f.kind.size) (hvs : RecordOf fs vs) :
        decodeFields fs (p ++ q ++ layoutImage fs vs ++ tail) = vs :=
      ih vs (p ++ q) (by rwa [List.length_append, hq]) hvs
    cases hk : f.kind.isReserved with
    | true =>
      rw [decodeFields_reserved f fs _ hk, layoutImage_reserved f fs vs hk, ← List.append_assoc]
      exact hnext _ vs (zeroBytes_length _) ((recordOf_reserved f fs vs hk).mp hr)
    | false =>
      obtain ⟨x, rest, rfl, hname, hkind, hvs⟩ := (recordOf_field f fs vs hk).mp hr
      have hlen := valueImage_length x.2 f.kind hkind
      rw [layoutImage_field f fs x rest hk, ← List.append_assoc]
      have hread : bytesRead (p ++ valueImage x.2 ++ layoutImage fs rest ++ tail) f.offset f.kind.size = valueImage x.2 := by
        simp [bytesRead, hoff, ← hlen]
      rw [decodeFields_field f fs _ x.2 (decodeValue_of_bytesRead _ _ _ _ hkind hread), hnext _ rest hlen hvs, ← hname]

/-- What the encoder leaves at a field after a decode: zeros at a reserved field, else the bytes that were read (R192, R194). -/
def fieldBytes (b : Bytes) (f : Field) : Bytes :=
  if f.kind.isReserved then zeroBytes f.kind.size else bytesRead b f.offset f.kind.size

theorem fieldBytes_reserved (b : Bytes) (f : Field) (h : f.kind.isReserved = true) :
    fieldBytes b f = zeroBytes f.kind.size := by
  rw [fieldBytes, if_pos h]

theorem fieldBytes_field (b : Bytes) (f : Field) (h : f.kind.isReserved = false) :
    fieldBytes b f = bytesRead b f.offset f.kind.size := by
  rw [fieldBytes, h, if_neg Bool.false_ne_true]

theorem fieldBytes_length (b : Bytes) (f : Field) (hfits : f.offset + f.kind.size ≤ b.length) :
    (fieldBytes b f).length = f.kind.size := by
  cases hk : f.kind.isReserved with
  | true => rw [fieldBytes_reserved b f hk, zeroBytes_length]
  | false =>
    rw [fieldBytes_field b f hk, bytesRead_length]
    omega

/-- The image of a decoded record is the layout's fields end to end (R192, R194, R243). -/
theorem layoutImage_decodeFields (layout : List Field) (b : Bytes) (o n : Nat) (ht : layoutTiles o n layout = true)
    (hn : n ≤ b.length) : layoutImage layout (decodeFields layout b) = layout.flatMap (fieldBytes b) := by
  induction layout generalizing o with
  | nil => rfl
  | cons f fs ih =>
    simp only [layoutTiles, Bool.and_eq_true, beq_iff_eq] at ht
    obtain ⟨hoff, hrest⟩ := ht
    have hend : o + f.kind.size ≤ n := layoutTiles_le fs _ n hrest
    rw [List.flatMap_cons, ← ih _ hrest]
    cases hk : f.kind.isReserved with
    | true => rw [decodeFields_reserved f fs b hk, layoutImage_reserved f fs _ hk, fieldBytes_reserved b f hk]
    | false =>
      obtain ⟨v, hv, -⟩ := exists_decodeValue b f.offset f.kind hk (by omega)
      rw [decodeFields_field f fs b v hv, layoutImage_field f fs _ _ hk, fieldBytes_field b f hk,
        valueImage_of_decodeValue b f.offset f.kind v hv (by omega)]

/-- Every field of a tiled layout ends within it (R191 item 3). -/
theorem field_end_le_of_tiles (layout : List Field) (o n : Nat) (ht : layoutTiles o n layout = true) (f : Field)
    (hf : f ∈ layout) : f.offset + f.kind.size ≤ n := by
  induction layout generalizing o with
  | nil => cases hf
  | cons a fs ih =>
    simp only [layoutTiles, Bool.and_eq_true, beq_iff_eq] at ht
    obtain ⟨hoff, hrest⟩ := ht
    rcases List.mem_cons.mp hf with rfl | hmem
    · exact hoff ▸ layoutTiles_le fs _ n hrest
    · exact ih _ hrest hmem

/-- The fields of a tiled layout, read end to end, are the bytes from its start to its end (R191 item 3). -/
theorem flatMap_bytesRead (layout : List Field) (b : Bytes) (o n : Nat) (ht : layoutTiles o n layout = true) :
    layout.flatMap (fun f => bytesRead b f.offset f.kind.size) = bytesRead b o (n - o) := by
  induction layout generalizing o with
  | nil =>
    have hn : o = n := by simpa [layoutTiles] using ht
    simp [hn, bytesRead]
  | cons f fs ih =>
    simp only [layoutTiles, Bool.and_eq_true, beq_iff_eq] at ht
    obtain ⟨hoff, hrest⟩ := ht
    have hend : o + f.kind.size ≤ n := layoutTiles_le fs _ n hrest
    rw [List.flatMap_cons, ih _ hrest, hoff, ← bytesRead_append]
    congr 1
    omega

/-- In a tiled layout put end to end after `p`, the bytes of each field stand at its offset (R191 item 3). -/
theorem getElem?_flatMap_of_tiles (g : Field → Bytes) (layout : List Field) (p : Bytes) (n : Nat)
    (hg : ∀ f ∈ layout, (g f).length = f.kind.size) (ht : layoutTiles p.length n layout = true) (f : Field)
    (hf : f ∈ layout) (k : Nat) (hk : k < f.kind.size) : (p ++ layout.flatMap g)[f.offset + k]? = (g f)[k]? := by
  induction layout generalizing p with
  | nil => cases hf
  | cons a fs ih =>
    simp only [layoutTiles, Bool.and_eq_true, beq_iff_eq] at ht
    obtain ⟨hoff, hrest⟩ := ht
    obtain ⟨ha, hfs⟩ := List.forall_mem_cons.mp hg
    rw [List.flatMap_cons, ← List.append_assoc]
    rcases List.mem_cons.mp hf with rfl | hmem
    · rw [hoff, List.append_assoc, List.getElem?_append_right (by omega), Nat.add_sub_cancel_left,
        List.getElem?_append_left (by omega)]
    · exact ih (p ++ g a) hfs (by rwa [List.length_append, ha]) hmem

/-- A field's bytes are zeros where the buffer's are (R243). -/
theorem bytesRead_eq_zeroBytes (b : Bytes) (o n : Nat) (h : ∀ k < n, Memory.read b (o + k) = some 0) :
    bytesRead b o n = zeroBytes n := by
  refine List.ext_getElem? fun k => ?_
  rw [bytesRead_getElem?, zeroBytes, List.getElem?_replicate]
  exact ite_congr rfl (h k) fun _ => rfl

/-- Where the reserved bytes are zero, the image of the decoded record is the bytes it was decoded from (R243). -/
theorem layoutImage_decodeFields_of_reserved_zero (layout : List Field) (b : Bytes) (n : Nat)
    (ht : layoutTiles 0 n layout = true) (hn : n ≤ b.length)
    (hzero : ∀ f ∈ layout, f.kind.isReserved = true → ∀ k < f.kind.size, Memory.read b (f.offset + k) = some 0) :
    layoutImage layout (decodeFields layout b) = b.take n := by
  have hfield (f : Field) (hf : f ∈ layout) : fieldBytes b f = bytesRead b f.offset f.kind.size := by
    cases hk : f.kind.isReserved with
    | true => rw [fieldBytes_reserved b f hk, bytesRead_eq_zeroBytes b _ _ (hzero f hf hk)]
    | false => exact fieldBytes_field b f hk
  calc layoutImage layout (decodeFields layout b)
      = layout.flatMap (fieldBytes b) := layoutImage_decodeFields layout b 0 n ht hn
    _ = layout.flatMap fun f => bytesRead b f.offset f.kind.size := List.flatMap_congr hfield
    _ = bytesRead b 0 n := flatMap_bytesRead layout b 0 n ht
    _ = b.take n := by rw [bytesRead, List.drop_zero]

/-- The bytes of a field that is not reserved stand in the image of the decoded record at the field's offset (R192, R242). -/
theorem layoutImage_decodeFields_getElem? (layout : List Field) (b : Bytes) (n : Nat) (ht : layoutTiles 0 n layout = true)
    (hn : n ≤ b.length) (f : Field) (hf : f ∈ layout) (hres : f.kind.isReserved = false) (k : Nat) (hk : k < f.kind.size) :
    (layoutImage layout (decodeFields layout b))[f.offset + k]? = Memory.read b (f.offset + k) := by
  have hlen (f : Field) (hf : f ∈ layout) : (fieldBytes b f).length = f.kind.size :=
    fieldBytes_length b f ((field_end_le_of_tiles layout 0 n ht f hf).trans hn)
  have hat := getElem?_flatMap_of_tiles (fieldBytes b) layout [] n hlen ht f hf k hk
  rw [List.nil_append] at hat
  rw [layoutImage_decodeFields layout b 0 n ht hn, hat, fieldBytes_field b f hres, bytesRead_getElem?, if_pos hk,
    Memory.read]

/-! ### The commands under any registry -/

/-- Settles O23: the entry of the type is the one that the lookup finds. -/
theorem lookupGivesTheRegisteredLength : Obligations.LookupGivesTheRegisteredLength := by
  refine fun s mt hmap => ⟨?_, fun hnone => exec_lookup_of_find_none ((find_none_iff _ _).mpr hnone)⟩
  rintro e he rfl
  exact exec_lookup_of_find (find_of_mem s.registry hmap e he)

/-- The entry found for a type of a permitted registry (R190, R191 item 1). -/
theorem find_of_mem_of_valid {r : Registry} {e : Entry} {mt : BitVec 16} (hr : r.valid = true) (he : e ∈ r)
    (hmt : e.mtype = mt) : r.find mt = some e :=
  hmt ▸ find_of_mem r (nodup_of_valid r hr) e he

/-- Settles O25: the encoder's three results, by the entry of the tag and the record's field set. -/
theorem encodePayloadWritesTheLayout : Obligations.EncodePayloadWritesTheLayout := by
  refine fun s hvalid => ⟨fun hnone => exec_encPld_of_find_none ((find_none_iff _ _).mpr hnone), fun e he hmt hother => ?_,
    fun e he hmt hrec => ⟨?_, ?_⟩⟩
  · exact exec_encPld_of_not_recordOf (find_of_mem_of_valid hvalid he hmt) (hother _ (.refl _))
  · exact exec_encPld_of_recordOf hvalid (find_of_mem_of_valid hvalid he hmt) hrec
  · exact layoutImage_length e.layout _ e.length (tiles_of_valid _ hvalid e he).1 hrec

/-- Settles O26: the decoder's three results; its record has the layout's fields, and its image has their bytes. -/
theorem decodePayloadReadsTheLayout : Obligations.DecodePayloadReadsTheLayout := by
  refine fun s mt hvalid => ⟨fun hnone => exec_decPld_of_find_none ((find_none_iff _ _).mpr hnone), fun e he hmt hlen => ?_,
    fun e he hmt hlen => ?_⟩
  · exact exec_decPld_of_lt (find_of_mem_of_valid hvalid he hmt) hlen
  · have htiles := (tiles_of_valid _ hvalid e he).1
    refine ⟨⟨mt, decodeFields e.layout s.ibuf⟩, exec_decPld_of_le (find_of_mem_of_valid hvalid he hmt) hlen, rfl, ?_,
      layoutImage_decodeFields_getElem? e.layout s.ibuf e.length htiles hlen⟩
    exact (fieldsMatch_iff_recordOf _ _).mp (fieldsMatch_decodeFields e.layout 0 e.length s.ibuf htiles hlen)

/-- A well-formed record is a record of its tag's layout (R36). -/
theorem wf_iff_exists_recordOf (r : Registry) (p : Payload) :
    p.wf r = true ↔ ∃ e, r.find p.mtype = some e ∧ RecordOf e.layout p.fields := by
  unfold Payload.wf
  cases r.find p.mtype <;> simp [fieldsMatch_iff_recordOf]

/-- The image of a record, with any bytes after it, decodes to the record (R193, R243). -/
theorem exec_decPld_layoutImage {s : State} {mt : BitVec 16} {e : Entry} {vs : List (FieldName × Value)} (tail : Bytes)
    (hvalid : s.registry.valid = true) (hfind : s.registry.find mt = some e) (hrec : RecordOf e.layout vs)
    (hibuf : s.ibuf = layoutImage e.layout vs ++ tail) : exec (.decPld mt) s = ends s (Outputs.okOpld ⟨mt, vs⟩) := by
  have htiles := (tiles_of_valid _ hvalid e (find_some _ mt e hfind).1).1
  have hlen := layoutImage_length e.layout vs e.length htiles hrec
  have hfields : decodeFields e.layout s.ibuf = vs := by
    rw [hibuf]
    exact decodeFields_layoutImage e.layout vs [] tail e.length htiles hrec
  rw [exec_decPld_of_le hfind (by rw [hibuf, List.length_append]; omega), hfields]

/-- Settles O27: a record is read back from its image, and the image of a decoded record is the bytes it was read from. -/
theorem payloadRoundTripUnderAnyRegistry : Obligations.PayloadRoundTripUnderAnyRegistry := by
  refine ⟨fun s hvalid hwf => ?_, fun s e hvalid he hlen hzero => ?_⟩
  · obtain ⟨e, hfind, hrec⟩ := (wf_iff_exists_recordOf _ _).mp hwf
    exact ⟨layoutImage e.layout s.pld.fields, exec_encPld_of_recordOf hvalid hfind hrec,
      exec_decPld_layoutImage [] hvalid hfind hrec (List.append_nil _).symm⟩
  · have hfind : s.registry.find e.mtype = some e := find_of_mem_of_valid hvalid he rfl
    have htiles := (tiles_of_valid _ hvalid e he).1
    have hrec : RecordOf e.layout (decodeFields e.layout s.ibuf) :=
      (fieldsMatch_iff_recordOf _ _).mp (fieldsMatch_decodeFields e.layout 0 e.length s.ibuf htiles hlen)
    refine ⟨⟨e.mtype, decodeFields e.layout s.ibuf⟩, exec_decPld_of_le hfind hlen, ?_⟩
    rw [← layoutImage_decodeFields_of_reserved_zero e.layout s.ibuf e.length htiles hlen hzero]
    exact exec_encPld_of_recordOf hvalid hfind hrec

/-! ### The default registry (R195 to R238; log 19) -/

/-- Settles O22: the first part of the invariant, which holds at reset. -/
theorem defaultRegistryMeetsTheConstraints : Obligations.DefaultRegistryMeetsTheConstraints :=
  ((State.inv_iff State.reset).mp resetMeetsTheInvariant).1

/-- A record of a type's default layout codes as its image (R195, R240 to R243). -/
theorem codesAs_of_layout (mt : BitVec 16) (layout : List Field) (fields : List (FieldName × Value)) (image : Bytes)
    (hlayout : (defaultRegistry.find mt).map Entry.layout = some layout) (hmatch : fieldsMatch layout fields = true)
    (himage : layoutImage layout fields = image) : CodesAs mt fields image := by
  obtain ⟨e, hfind, rfl⟩ := Option.map_eq_some_iff.mp hlayout
  subst himage
  intro s hs
  have hvalid : s.registry.valid = true := hs ▸ defaultRegistryMeetsTheConstraints
  have hrec : RecordOf e.layout fields := (fieldsMatch_iff_recordOf _ _).mp hmatch
  rw [← hs] at hfind
  have htiles := (tiles_of_valid _ hvalid e (find_some _ mt e hfind).1).1
  refine ⟨fun hp => ?encode, fun tail hibuf => exec_decPld_layoutImage tail hvalid hfind hrec hibuf, ?lookup⟩
  case encode =>
    have hencode := exec_encPld_of_recordOf (s := s) (e := e) hvalid
    rw [hp] at hencode
    exact hencode hfind hrec
  case lookup => rw [layoutImage_length e.layout fields e.length htiles hrec, exec_lookup_of_find hfind]

/-- A type with an empty layout carries no bytes. -/
theorem codesAs_nil (mt : BitVec 16) (hlayout : (defaultRegistry.find mt).map Entry.layout = some []) : CodesAs mt [] [] :=
  codesAs_of_layout mt [] [] [] hlayout rfl rfl

/-- Settles O29: each layout is empty. -/
theorem emptyDeviceRequestsCarryNoBytes : Obligations.EmptyDeviceRequestsCarryNoBytes :=
  ⟨codesAs_nil 2 rfl, codesAs_nil 12 rfl, codesAs_nil 14 rfl, codesAs_nil 16 rfl, codesAs_nil 18 rfl, codesAs_nil 20 rfl,
    codesAs_nil 23 rfl⟩

/-- Settles O30: each layout is empty. -/
theorem emptyLateTypesCarryNoBytes : Obligations.EmptyLateTypesCarryNoBytes :=
  ⟨codesAs_nil 32 rfl, codesAs_nil 34 rfl, codesAs_nil 45 rfl, codesAs_nil 48 rfl, codesAs_nil 51 rfl, codesAs_nil 54 rfl,
    codesAs_nil 101 rfl, codesAs_nil 116 rfl, codesAs_nil 120 rfl⟩

/-- Settles O31: the layouts are those of the default entries, and each image is the record's. -/
theorem serviceHostWifiPowerLayouts : Obligations.ServiceHostWifiPowerLayouts := by
  have hinfo : ∀ mt ∈ ([13, 17] : List (BitVec 16)),
      (defaultRegistry.find mt).map Entry.layout = some entryStateHostInfo.layout := by
    intro x hx
    fin_cases hx <;> rfl
  have hfirmware : ∀ mt ∈ ([15, 19] : List (BitVec 16)),
      (defaultRegistry.find mt).map Entry.layout = some entryStateHostFirmware.layout := by
    intro x hx
    fin_cases hx <;> rfl
  refine ⟨fun service port => codesAs_of_layout 3 entryStateService.layout _ _ rfl rfl ?_,
    fun mt hmt signal tx rx => codesAs_of_layout mt _ _ _ (hinfo mt hmt) rfl ?_,
    fun mt hmt build version => codesAs_of_layout mt _ _ _ (hfirmware mt hmt) rfl ?_,
    fun level duration => codesAs_of_layout 21 entrySetPower.layout _ _ rfl rfl ?_,
    fun level => codesAs_of_layout 22 entryStatePower.layout _ _ rfl rfl ?_⟩
  all_goals simp [layoutImage, valueImage, leBytes_one_toNat, Kind.isReserved, Kind.size, List.replicate_succ,
    entryStateService, entryStateHostInfo, entryStateHostFirmware, entrySetPower, entryStatePower]

/-- Settles O32: the layouts are those of the default entries, and each image is the record's. -/
theorem labelVersionInfoLocationGroupLayouts : Obligations.LabelVersionInfoLocationGroupLayouts := by
  have hlabel : ∀ mt ∈ ([24, 25] : List (BitVec 16)),
      (defaultRegistry.find mt).map Entry.layout = some [⟨0, .label, .bytes 32⟩] := by
    intro x hx
    fin_cases hx <;> rfl
  have hplace : ∀ x ∈ ([(49, .location), (50, .location), (52, .group), (53, .group)] : List (BitVec 16 × FieldName)),
      (defaultRegistry.find x.1).map Entry.layout =
        some [⟨0, x.2, .bytes 16⟩, ⟨16, .label, .bytes 32⟩, ⟨48, .updatedAt, .u64⟩] := by
    intro x hx
    fin_cases hx <;> rfl
  refine ⟨fun mt hmt label hlen => codesAs_of_layout mt _ _ _ (hlabel mt hmt) ?_ ?_,
    fun vendor product version => codesAs_of_layout 33 entryStateVersion.layout _ _ rfl rfl ?_,
    fun time uptime downtime => codesAs_of_layout 35 entryStateInfo.layout _ _ rfl rfl ?_,
    fun x hx idBytes label updatedAt hid hlen => codesAs_of_layout x.1 _ _ _ (hplace x hx) ?_ ?_⟩
  all_goals simp [fieldsMatch, Value.hasKind, layoutImage, valueImage, Kind.isReserved, entryStateVersion,
    entryStateInfo, *]

/-- Settles O33: one byte array of the layout's length, which is its own image. -/
theorem unknownAndEchoLayouts : Obligations.UnknownAndEchoLayouts := by
  have hdata : ∀ mt ∈ ([55, 56] : List (BitVec 16)),
      (defaultRegistry.find mt).map Entry.layout = some [⟨0, .data, .bytes 56⟩] := by
    intro x hx
    fin_cases hx <;> rfl
  have hechoing : ∀ mt ∈ ([58, 59] : List (BitVec 16)),
      (defaultRegistry.find mt).map Entry.layout = some [⟨0, .echoing, .bytes 64⟩] := by
    intro x hx
    fin_cases hx <;> rfl
  refine ⟨fun mt hmt data hlen => codesAs_of_layout mt _ _ _ (hdata mt hmt) ?_ ?_,
    fun mt hmt echoing hlen => codesAs_of_layout mt _ _ _ (hechoing mt hmt) ?_ ?_⟩
  all_goals simp [fieldsMatch, Value.hasKind, layoutImage, valueImage, Kind.isReserved, hlen]

/-- Settles O34: the layouts are those of the default entries, and each image is the record's. -/
theorem lightLayouts : Obligations.LightLayouts := by
  have hinfrared : ∀ mt ∈ ([121, 122] : List (BitVec 16)),
      (defaultRegistry.find mt).map Entry.layout = some [⟨0, .brightness, .u16⟩] := by
    intro x hx
    fin_cases hx <;> rfl
  refine ⟨fun color duration => codesAs_of_layout 102 entryLightSetColor.layout _ _ rfl rfl ?_,
    fun transient color period cycles skewRatio waveform =>
      codesAs_of_layout 103 entryLightSetWaveform.layout _ _ rfl rfl ?_,
    fun color power label hlen => codesAs_of_layout 107 entryLightState.layout _ _ rfl ?_ ?_,
    fun level duration => codesAs_of_layout 117 entryLightSetPower.layout _ _ rfl rfl ?_,
    fun level => codesAs_of_layout 118 entryLightStatePower.layout _ _ rfl rfl ?_,
    fun transient color period cycles skewRatio waveform setHue setSaturation setBrightness setKelvin =>
      codesAs_of_layout 119 entryLightSetWaveformOptional.layout _ _ rfl rfl ?_,
    fun mt hmt brightness => codesAs_of_layout mt _ _ _ (hinfrared mt hmt) rfl ?_⟩
  all_goals simp [fieldsMatch, Value.hasKind, layoutImage, valueImage, leBytes_one_toNat, Kind.isReserved, Kind.size,
    List.replicate_succ, entryLightSetColor, entryLightSetWaveform, entryLightState, entryLightSetPower,
    entryLightStatePower, entryLightSetWaveformOptional, *]

/-- A row under the lookup contract answers the length registered for its code (R240; log 1). -/
theorem exec_of_registered_length (i : Instr) (l : Nat) (s : State) (hs : s.registry = defaultRegistry)
    (hc : s.contract = .lookup) (h : ((messageCode i).bind defaultRegistry.find).map Entry.length = some l) :
    exec i s = ends s (Outputs.okOlen l) := by
  simp only [Option.map_eq_some_iff, Option.bind_eq_some_iff] at h
  obtain ⟨e, ⟨mt, hcode, hfind⟩, rfl⟩ := h
  rw [exec_of_messageCode i mt s hcode, variantResult_lookup mt s hc, hs, lookupLength_of_find hfind, except_map_ok,
    outputsOf_ok]

/-- Settles O35: the code of each row and the length of its entry. -/
theorem deviceRowsAnswerTheirLength : Obligations.DeviceRowsAnswerTheirLength := by
  refine fun x hx s hs hc => exec_of_registered_length x.1 x.2 s hs hc ?_
  revert x
  decide

/-- Settles O36: the code of each row and the length of its entry. -/
theorem lightRowsAnswerTheirLength : Obligations.LightRowsAnswerTheirLength := by
  refine fun x hx s hs hc => exec_of_registered_length x.1 x.2 s hs hc ?_
  revert x
  decide

end Sys2Proof

/-! ## The packet codec (43_packet.md R260 to R266)

PARSE passes on the errors of DEC_HDR (`headerErrors_parse`), and `parsePacket_eq` is what it does behind a good header of a
registered type. Bytes past the header do not change the header, nor bytes past the packet the parse (`decodeHeader_append`,
`parsePacket_append`). An assembled packet begins with the 36 bytes of its header (`headerAt_packetImage`), whose checks decide
whether it parses back. -/

namespace Sys2Proof

open Machine Statement

/-! ### ASSEMBLE -/

/-- ASSEMBLE drives the assembled packet, or ends with the assembler's error (R260). -/
theorem exec_assemble (s : State) :
    exec .assemble s = ends s (outputsOf ((assemblePacket s.registry s.hdr s.pld).map Outputs.okObuf)) := by
  rw [exec, execAssemble, finish_eq]

/-- The header of an assembled packet: the given one with the computed size and the tag (R260). -/
def packetHeader (h : Header) (e : Entry) (p : Payload) : Header :=
  { h with size := BitVec.ofNat 16 (36 + e.length), messageType := p.mtype }

section
variable {s : State} {e : Entry}

theorem exec_assemble_of_find_none (hfind : s.registry.find s.pld.mtype = none) :
    exec .assemble s = ends s (Outputs.error .unknownMessageType) := by
  rw [exec_assemble]
  simp [assemblePacket, hfind]

theorem exec_assemble_of_not_recordOf (hfind : s.registry.find s.pld.mtype = some e)
    (hrec : ¬ RecordOf e.layout s.pld.fields) : exec .assemble s = ends s (Outputs.error .illegalOperation) := by
  rw [← fieldsMatch_iff_recordOf] at hrec
  rw [exec_assemble]
  simp [assemblePacket, hfind, hrec]

theorem exec_assemble_of_gt (hfind : s.registry.find s.pld.mtype = some e) (hrec : RecordOf e.layout s.pld.fields)
    (htotal : 128 < 36 + e.length) : exec .assemble s = ends s (Outputs.error .payloadTooLarge) := by
  rw [← fieldsMatch_iff_recordOf] at hrec
  rw [exec_assemble]
  simp [assemblePacket, hfind, hrec, Config.headerLen, Config.maxPacket, htotal]

theorem exec_assemble_of_le (hfind : s.registry.find s.pld.mtype = some e) (hrec : RecordOf e.layout s.pld.fields)
    (htotal : 36 + e.length ≤ 128) :
    exec .assemble s = ends s (Outputs.okObuf
      (encodeHeader (packetHeader s.hdr e s.pld) ++ encodeFields e.layout s.pld.fields (zeroBytes e.length))) := by
  rw [← fieldsMatch_iff_recordOf] at hrec
  rw [exec_assemble, (assemblePacket_ok ..).mpr ⟨e, hfind, hrec, htotal, rfl⟩, except_map_ok, outputsOf_ok]
  rfl

/-- The payload of an assembled packet is what ENC_PLD gives (R260). -/
theorem exec_encPld_encodeFields (hfind : s.registry.find s.pld.mtype = some e) (hrec : RecordOf e.layout s.pld.fields) :
    exec .encPld s = ends s (Outputs.okObuf (encodeFields e.layout s.pld.fields (zeroBytes e.length))) := by
  rw [← fieldsMatch_iff_recordOf] at hrec
  rw [exec_encPld, (encodePayload_ok ..).mpr ⟨e, hfind, hrec, rfl⟩, except_map_ok, outputsOf_ok]

end

/-- The outputs of a transaction can be read off its next state. -/
theorem ends_inj {s : State} {o o' : Outputs} (h : ends s o = ends s o') : o = o' :=
  congrArg State.out (Host.Outcome.next.inj h)

/-- Under a permitted registry every payload fits a packet (R191 item 2, R260). -/
theorem exec_assemble_ne_payloadTooLarge (s : State) (hvalid : s.registry.valid = true) :
    exec .assemble s ≠ ends s (Outputs.error .payloadTooLarge) := by
  intro h
  cases hfind : s.registry.find s.pld.mtype with
  | none =>
    have herr := ends_inj ((exec_assemble_of_find_none hfind).symm.trans h)
    exact absurd herr (by decide)
  | some e =>
    by_cases hrec : RecordOf e.layout s.pld.fields
    · have hlen := (tiles_of_valid _ hvalid e (find_some _ _ e hfind).1).2
      have hok := ends_inj ((exec_assemble_of_le hfind hrec (by omega)).symm.trans h)
      exact absurd (congrArg Outputs.obuf hok) (Option.some_ne_none _)
    · have herr := ends_inj ((exec_assemble_of_not_recordOf hfind hrec).symm.trans h)
      exact absurd herr (by decide)

/-- The entry found for a type of a registry with one entry per type (R190). -/
theorem find_of_mem_of_isMap {r : Registry} {e : Entry} {mt : BitVec 16} (hr : IsMap r) (he : e ∈ r) (hmt : e.mtype = mt) :
    r.find mt = some e :=
  hmt ▸ find_of_mem r hr e he

/-- Settles O39: the assembler's four results, by the entry of the tag, the field set and the total. -/
theorem assembleComputesSizeAndType : Obligations.AssembleComputesSizeAndType := by
  refine ⟨fun s hmap => ⟨fun hnone => ?_, fun e he hmt hother => ?_, fun e he hmt hrec htotal => ?_,
    fun e he hmt hrec htotal => ?_⟩, exec_assemble_ne_payloadTooLarge⟩
  · exact exec_assemble_of_find_none ((find_none_iff _ _).mpr hnone)
  · exact exec_assemble_of_not_recordOf (find_of_mem_of_isMap hmap he hmt) (hother _ (.refl _))
  · exact exec_assemble_of_gt (find_of_mem_of_isMap hmap he hmt) hrec htotal
  · have hfind := find_of_mem_of_isMap hmap he hmt
    refine ⟨_, exec_encPld_encodeFields hfind hrec, by simp, ?_⟩
    rw [exec_assemble_of_le hfind hrec htotal, encodeHeader_eq_headerImage]
    rfl

/-! ### PARSE -/

/-- PARSE drives the parsed packet, or ends with the parser's error (R261). -/
theorem exec_parse (s : State) :
    exec .parse s = ends s (outputsOf ((parsePacket s.registry s.ibuf).map fun x => Outputs.okPacket x.1 x.2)) := by
  rw [exec, execParse, finish_eq]

/-- PARSE passes on an error of DEC_HDR (R262). -/
theorem exec_parse_of_exec_decHdr_error {s : State} {e : Err} (h : exec .decHdr s = ends s (Outputs.error e)) :
    exec .parse s = ends s (Outputs.error e) := by
  rw [← h, exec_parse, exec_decHdr]
  cases hdec : decodeHeader s.ibuf with
  | error e' => simp [parsePacket, hdec]
  | ok hd =>
    rw [exec_decHdr, hdec] at h
    exact absurd (congrArg Outputs.ohdr (ends_inj h)) (Option.some_ne_none _)

/-- PARSE starts with DecodeHeader: its header errors are those of DEC_HDR (R172, R262). -/
theorem headerErrors_parse (s : State) : HeaderErrors .parse s := by
  obtain ⟨⟨hshort, horigin, hprotocol, hsize⟩, -⟩ := decodeHeaderChecksThenReadsTheFields s
  exact ⟨fun h => exec_parse_of_exec_decHdr_error (hshort h),
    fun hlen h => exec_parse_of_exec_decHdr_error (horigin hlen h),
    fun hpasses h => exec_parse_of_exec_decHdr_error (hprotocol hpasses h),
    fun hpasses h => exec_parse_of_exec_decHdr_error (hsize hpasses h)⟩

/-- Behind a good header of a registered type: truncation, declared size, record, in the order of R262. -/
theorem parsePacket_eq {r : Registry} {b : Bytes} {h : Header} {e : Entry} (hdec : decodeHeader b = .ok h)
    (hfind : r.find h.messageType = some e) :
    parsePacket r b =
      if b.length < 36 + e.length then .error .truncatedPacket
      else if h.size.toNat ≠ 36 + e.length then .error .payloadLengthMismatch
      else .ok (h, ⟨h.messageType, decodeFields e.layout (bytesRead b 36 e.length)⟩) := by
  split_ifs with htrunc hsize
  · simp [parsePacket, hdec, parseBody, hfind, Config.headerLen, htrunc]
  · simp [parsePacket, hdec, parseBody, hfind, Config.headerLen, htrunc, hsize]
  · exact (parsePacket_ok ..).mpr ⟨e, hdec, hfind, Nat.le_of_not_lt htrunc, not_not.mp hsize, rfl⟩

/-- The type that a buffer declares is unregistered when no entry has it (R190, R261). -/
theorem find_headerFields_none {r : Registry} {b : Bytes} (h : ∀ e ∈ r, e.mtype.toNat ≠ leAt b 32 2) :
    r.find (headerFields b).messageType = none := by
  refine (find_none_iff _ _).mpr fun e he hmt => h e he ?_
  rw [hmt, (headerAt_headerFields b).messageType]

theorem exec_parse_of_find_none {s : State} {h : Header} (hdec : decodeHeader s.ibuf = .ok h)
    (hnone : s.registry.find h.messageType = none) : exec .parse s = ends s (Outputs.error .unknownMessageType) := by
  rw [exec_parse, parsePacket_of_find_none _ _ _ hdec hnone, except_map_error, outputsOf_error]

/-- Settles O40: the header errors, the unregistered type, then the branches of `parsePacket_eq`. -/
theorem parseReportsTheFirstErrorOrThePacket : Obligations.ParseReportsTheFirstErrorOrThePacket := by
  refine fun s hmap => ⟨headerErrors_parse s, fun hpasses hnone => ?unregistered, fun hpasses e he hmt => ?registered⟩
  case unregistered =>
    exact exec_parse_of_find_none (decodeHeader_of_headerPasses _ hpasses) (find_headerFields_none hnone)
  case registered =>
    have hdec := decodeHeader_of_headerPasses _ hpasses
    have htype := headerFields_messageType s.ibuf e.mtype hmt.symm
    have hfind := find_of_mem_of_isMap hmap he rfl
    have hparse := parsePacket_eq hdec (htype ▸ hfind)
    rw [(headerAt_headerFields s.ibuf).size] at hparse
    refine ⟨fun htrunc => ?_, fun hlen hsize => ?_, fun hlen hsize => ⟨headerFields s.ibuf, _, ?_, ?_, htype,
      exec_decPld_of_le hfind ?_⟩⟩
    · rw [exec_parse, hparse, if_pos htrunc, except_map_error, outputsOf_error]
    · rw [exec_parse, hparse, if_neg (Nat.not_lt.mpr hlen), if_pos hsize, except_map_error, outputsOf_error]
    · rw [exec_parse, hparse, if_neg (Nat.not_lt.mpr hlen), if_neg (not_not.mpr hsize), htype, except_map_ok, outputsOf_ok]
      rfl
    · rw [exec_decHdr, hdec, except_map_ok, outputsOf_ok]
    · simp only [List.length_take, List.length_drop]
      omega

/-! ### The bytes that PARSE reads -/

theorem byteAt_append (a tail : Bytes) (k : Nat) (hk : k < a.length) : byteAt (a ++ tail) k = byteAt a k := by
  simp [byteAt, List.getElem?_append_left hk]

/-- Buffers whose first 36 bytes are equal hold the same header (R170). -/
theorem Statement.HeaderAt.append {h : Header} {a : Bytes} (hat : HeaderAt h a) (ha : 36 ≤ a.length) (tail : Bytes) :
    HeaderAt h (a ++ tail) :=
  hat.congr (fun k hk _ => byteAt_append a tail k (by omega)) (by rw [byteAt_append a tail 22 (by omega)])

theorem headerFields_append (a tail : Bytes) (ha : 36 ≤ a.length) : headerFields (a ++ tail) = headerFields a :=
  ((headerAt_iff _ _).mp ((headerAt_headerFields a).append ha tail)).symm

/-- DecodeHeader reads nothing past the header (R174). -/
theorem decodeHeader_append (a tail : Bytes) (ha : 36 ≤ a.length) : decodeHeader (a ++ tail) = decodeHeader a := by
  have htotal : 36 ≤ (a ++ tail).length := by
    rw [List.length_append]
    omega
  rw [decodeHeader, decodeHeader, headerFields_append a tail ha, if_neg (Nat.not_lt.mpr htotal), if_neg (Nat.not_lt.mpr ha)]

/-- What follows the packet of a registered type does not change the parse (R263). -/
theorem parsePacket_append {r : Registry} {a : Bytes} {e : Entry} (tail : Bytes)
    (hfind : r.find (headerFields a).messageType = some e) (ha : 36 + e.length ≤ a.length) :
    parsePacket r (a ++ tail) = parsePacket r a := by
  have hheader := decodeHeader_append a tail (by omega)
  cases hdec : decodeHeader a with
  | error err => simp [parsePacket, hheader, hdec]
  | ok h =>
    obtain ⟨-, rfl, -⟩ := (decodeHeader_ok a h).mp hdec
    have htotal : 36 + e.length ≤ (a ++ tail).length := by
      rw [List.length_append]
      omega
    have hpayload : bytesRead (a ++ tail) 36 e.length = bytesRead a 36 e.length := by
      rw [bytesRead, bytesRead, List.drop_append_of_le_length (by omega), List.take_append_of_le_length]
      rw [List.length_drop]
      omega
    rw [parsePacket_eq (hheader.trans hdec) hfind, parsePacket_eq hdec hfind, hpayload, if_neg (Nat.not_lt.mpr htotal),
      if_neg (Nat.not_lt.mpr ha)]

/-- Settles O41: both buffers parse as their first `36 + L` bytes do. -/
theorem parseIgnoresBytesPastThePacket : Obligations.ParseIgnoresBytesPastThePacket := by
  intro s e tail hvalid he htype hlen
  have hpacket : (s.ibuf.take (36 + e.length)).length = 36 + e.length := List.length_take_of_le hlen
  have hsplit : s.ibuf.take (36 + e.length) ++ s.ibuf.drop (36 + e.length) = s.ibuf := List.take_append_drop _ _
  have hfind : s.registry.find (headerFields (s.ibuf.take (36 + e.length))).messageType = some e := by
    rw [← headerFields_append _ (s.ibuf.drop (36 + e.length)) (by omega), hsplit, headerFields_messageType _ _ htype]
    exact find_of_mem_of_valid hvalid he rfl
  have hparse : parsePacket s.registry (s.ibuf.take (36 + e.length) ++ tail) = parsePacket s.registry s.ibuf := by
    rw [parsePacket_append tail hfind hpacket.ge, ← parsePacket_append (s.ibuf.drop (36 + e.length)) hfind hpacket.ge,
      hsplit]
  exact ⟨_, exec_parse s, by rw [exec_parse, hparse]⟩

/-- Settles O42: the first 36 bytes alone decide the header, whose type is unregistered. -/
theorem unknownTypeConsumesNoPayloadBytes : Obligations.UnknownTypeConsumesNoPayloadBytes := by
  intro s tail hpasses hnone
  have hheader : (s.ibuf.take 36).length = 36 := List.length_take_of_le hpasses.1.1.1
  have hdec : decodeHeader (s.ibuf.take 36 ++ tail) = .ok (headerFields s.ibuf) := by
    rw [decodeHeader_append _ tail hheader.ge, ← decodeHeader_append _ (s.ibuf.drop 36) hheader.ge,
      List.take_append_drop, decodeHeader_of_headerPasses _ hpasses]
  exact exec_parse_of_find_none hdec (find_headerFields_none hnone)

/-! ### What a parsed packet satisfies -/

theorem Machine.Header.valid_iff (h : Header) :
    h.valid = true ↔ h.origin = 0 ∧ h.protocol = 1024 ∧ 36 ≤ h.size.toNat ∧ h.size.toNat ≤ 128 := by
  simp only [Header.valid, Bool.and_eq_true, beq_iff_eq, decide_eq_true_eq, and_assoc]
  exact Iff.rfl

/-- An error's status is not that of a success (R281). -/
theorem error_status_ne_ok (e : Err) : (Outputs.error e).status ≠ some statusOk := by
  cases e <;> decide

/-- Settles O44: a parse that ends with OK drives a parsed packet, of which `parsePacket_ok` and the header's validity say all. -/
theorem parsedPacketsSatisfyTheInvariants : Obligations.ParsedPacketsSatisfyTheInvariants := by
  intro s t hexec hstatus
  obtain ⟨o, ho, hend⟩ := exec_mayEndWith .parse s
  obtain rfl : { s with out := o } = t := Host.Outcome.next.inj (ho.symm.trans hexec)
  cases hend with
  | error _ err => exact absurd hstatus (error_status_ne_ok err)
  | packet x hp =>
    obtain ⟨e, hdec, hfind, hlen, hsize, hrec⟩ := (parsePacket_ok ..).mp hp
    obtain ⟨he, htype⟩ := find_some _ _ e hfind
    obtain ⟨-, -, hvalid⟩ := (decodeHeader_ok ..).mp hdec
    obtain ⟨horigin, hprotocol, hmin, hmax⟩ := (Header.valid_iff _).mp hvalid
    exact ⟨x.1, x.2, e, rfl, he, htype, by rw [hrec], hsize, hmin, hmax, hsize ▸ hlen, horigin, hprotocol⟩

/-! ### The packet round trip -/

/-- The assembled packet of a record of the entry's layout (R260, R265). -/
def packetImage (h : Header) (e : Entry) (p : Payload) : Bytes :=
  encodeHeader (packetHeader h e p) ++ layoutImage e.layout p.fields

/-- An assembled packet begins with its header, whatever the header's fields are. -/
theorem headerAt_packetImage (h : Header) (e : Entry) (p : Payload) : HeaderAt (packetHeader h e p) (packetImage h e p) :=
  (headerAt_encodeHeader _).append (encodeHeader_length _).ge _

theorem packetImage_length (h : Header) (e : Entry) (p : Payload) :
    (packetImage h e p).length = 36 + (layoutImage e.layout p.fields).length := by
  rw [packetImage, List.length_append, encodeHeader_length]

/-- The computed size is not cut by its 16 bits (R260). -/
theorem packetHeader_size (h : Header) (e : Entry) (p : Payload) (hlen : e.length ≤ 92) :
    (packetHeader h e p).size.toNat = 36 + e.length := by
  rw [packetHeader, BitVec.toNat_ofNat]
  omega

/-- A header that has the computed size and type is the header of its packet (R265). -/
theorem packetHeader_eq_self (h : Header) (e : Entry) (p : Payload) (hsize : h.size.toNat = 36 + e.length)
    (htype : h.messageType = p.mtype) : packetHeader h e p = h := by
  rw [packetHeader, ← hsize, ← htype, BitVec.ofNat_toNat, BitVec.setWidth_eq]

/-- Under a permitted registry ASSEMBLE writes the image of the packet (R260, R241). -/
theorem exec_assemble_of_recordOf {s : State} {e : Entry} (hvalid : s.registry.valid = true)
    (hfind : s.registry.find s.pld.mtype = some e) (hrec : RecordOf e.layout s.pld.fields) :
    exec .assemble s = ends s (Outputs.okObuf (packetImage s.hdr e s.pld)) := by
  obtain ⟨htiles, hlen⟩ := tiles_of_valid _ hvalid e (find_some _ _ e hfind).1
  have himage : encodeFields e.layout s.pld.fields (zeroBytes e.length) = layoutImage e.layout s.pld.fields :=
    encodeFields_append e.layout s.pld.fields [] e.length (by simpa using htiles) hrec
  rw [exec_assemble_of_le hfind hrec (by omega), himage, packetImage]

/-- A packet with a valid header parses to that header and to the record (R265). -/
theorem parsePacket_packetImage (r : Registry) (h : Header) (e : Entry) (p : Payload) (hvalid : r.valid = true)
    (hfind : r.find p.mtype = some e) (hrec : RecordOf e.layout p.fields) (horigin : h.origin = 0)
    (hprotocol : h.protocol = 1024) : parsePacket r (packetImage h e p) = .ok (packetHeader h e p, p) := by
  obtain ⟨htiles, hlen⟩ := tiles_of_valid _ hvalid e (find_some _ _ e hfind).1
  have hpayload : (layoutImage e.layout p.fields).length = e.length := layoutImage_length _ _ _ htiles hrec
  have htotal : (packetImage h e p).length = 36 + e.length := by rw [packetImage_length, hpayload]
  have hsize := packetHeader_size h e p hlen
  have hheader : (packetHeader h e p).valid = true :=
    (Header.valid_iff _).mpr ⟨horigin, hprotocol, by omega, by omega⟩
  have hdec : decodeHeader (packetImage h e p) = .ok (packetHeader h e p) :=
    (decodeHeader_ok ..).mpr ⟨by omega, (headerAt_iff _ _).mp (headerAt_packetImage h e p), hheader⟩
  have hread : bytesRead (packetImage h e p) 36 e.length = layoutImage e.layout p.fields := by
    rw [bytesRead, packetImage, List.drop_left' (encodeHeader_length _), List.take_of_length_le hpayload.le]
  have hfields : decodeFields e.layout (layoutImage e.layout p.fields) = p.fields := by
    simpa using decodeFields_layoutImage e.layout p.fields [] [] e.length htiles hrec
  refine (parsePacket_ok ..).mpr ⟨e, hdec, hfind, htotal.ge, hsize, ?_⟩
  rw [hread, hfields]
  rfl

/-- Settles O43: ASSEMBLE writes the packet's image, which parses back where its header is valid; the checks of PARSE read the
origin and the protocol of the given header. -/
theorem assembledPacketsParseBack : Obligations.AssembledPacketsParseBack := by
  intro s e hvalid he hmt hwf
  have hfind := find_of_mem_of_valid hvalid he hmt
  obtain ⟨e', hfind', hrec⟩ := (wf_iff_exists_recordOf _ _).mp hwf
  obtain rfl : e = e' := Option.some.inj (hfind.symm.trans hfind')
  have hat := headerAt_packetImage s.hdr e s.pld
  have hlen : 36 ≤ (packetImage s.hdr e s.pld).length := by
    rw [packetImage_length]
    omega
  have hparse (horigin : s.hdr.origin = 0) (hprotocol : s.hdr.protocol = 1024) :
      exec .parse { s with ibuf := packetImage s.hdr e s.pld } =
        ends { s with ibuf := packetImage s.hdr e s.pld } (Outputs.okPacket (packetHeader s.hdr e s.pld) s.pld) := by
    rw [exec_parse, parsePacket_packetImage _ _ _ _ hvalid hfind hrec horigin hprotocol, except_map_ok, outputsOf_ok]
  obtain ⟨-, hbadOrigin, hbadProtocol, -⟩ := headerErrors_parse { s with ibuf := packetImage s.hdr e s.pld }
  refine ⟨packetImage s.hdr e s.pld, exec_assemble_of_recordOf hvalid hfind hrec, fun horigin hprotocol => ?computed,
    fun horigin hprotocol hsize htype => ?given, fun horigin => ?origin, fun horigin hprotocol => ?protocol⟩
  case computed =>
    rw [hparse horigin hprotocol, hmt]
    rfl
  case given => rw [hparse horigin hprotocol, packetHeader_eq_self s.hdr e s.pld hsize (htype.trans hmt)]
  case origin => exact hbadOrigin hlen fun h => horigin (BitVec.eq_of_toNat_eq (hat.origin.trans h))
  case protocol =>
    refine hbadProtocol ⟨hlen, ?_⟩ fun h => hprotocol (BitVec.eq_of_toNat_eq (hat.protocol.trans h))
    exact hat.origin.symm.trans (congrArg BitVec.toNat horigin)

end Sys2Proof

/-! ## The status codes and the outputs of an error (60_exceptions.md R281, R282)

Every port field of `Outputs.error` but `STATUS` is `none` (the lemmas of Laws/State), so no port is driven. -/

namespace Sys2Proof

open Machine Statement

/-- An error drives none of the six value ports (R282). -/
@[simp] theorem drivenPorts_error (e : Err) : drivenPorts (Outputs.error e) = List.replicate 6 false := by
  simp only [drivenPorts, Outputs.error_rval, Outputs.error_rdata, Outputs.error_obuf, Outputs.error_olen,
    Outputs.error_ohdr, Outputs.error_opld, Option.isSome_none]
  rfl

/-- Settles O45: the codes are the table of R281, and an error's outputs are `STATUS` by definition. -/
theorem statusCodesOfTheErrors : Obligations.StatusCodesOfTheErrors :=
  ⟨rfl, rfl, fun e => ⟨rfl, drivenPorts_error e⟩⟩

end Sys2Proof
